-- ==== Sys2Proof/Word.lean ====
section
/-! DEFINITION. The engine's word, its byte, and the four-element record that every level of the hardware is
made of: four row lanes in a row, four rows in a block, four batch lanes in `X` (spec rules R4, R6, R11, R12). -/

namespace Sys2Proof

/-- A word: 32 unsigned bits (R6). -/
abbrev Word := BitVec 32

/-- One byte of a block window (R32). -/
abbrev Byte := BitVec 8

/-- Four values of one kind, numbered 0 to 3. -/
structure Quad (α : Type) where
  q0 : α
  q1 : α
  q2 : α
  q3 : α
  deriving DecidableEq, Repr

/-- Four rows of four values, row-major (R9 "State", R11): generic in the lane value, as the document's lane
capability is. -/
abbrev Matrix4 (α : Type) := Quad (Quad α)

/-- One block: 16 words in 4 rows by 4 columns (R4, R11). -/
abbrev Block := Matrix4 Word

/-- The four batch lanes `X[0]` to `X[3]` (R11). -/
abbrev Lanes := Quad Block

end Sys2Proof
end

