-- ==== Sys2Proof/Syntax.lean ====
section
/-! DEFINITION. The instructions (R50): one constructor per row of spec/opcode_table.json, and the bus access
that presents one (R19, R51). -/

namespace Sys2Proof

/-- What the host puts on the input pins for one access (R19): write enable, size code, byte offset and write data. -/
structure Access where
  we    : Bool
  size  : BitVec 2
  addr  : BitVec 9
  wdata : Word
  deriving DecidableEq, Repr

/-- The instructions of the engine (R50): four bus accesses and three commands.
The fields are those of the encodings (R51, R53): a block access keeps the two-bit size code and the eight address
bits below `addr[8] = 0`; `wdata` is the write data on its byte lanes (R19). -/
inductive Instr where
  /-- WR_CMD (R103): write the command word. -/
  | wrCmd (word : Word)
  /-- RD_STATUS (R105). -/
  | rdStatus
  /-- WR_BLOCK (R100). -/
  | wrBlock (size : BitVec 2) (addr : BitVec 8) (wdata : Word)
  /-- RD_BLOCK (R101). -/
  | rdBlock (size : BitVec 2) (addr : BitVec 8)
  /-- PERMUTE_ONLY (R94). -/
  | permuteOnly (rounds : BitVec 8)
  /-- PERMUTE_AND_ADD (R95). -/
  | permuteAndAdd (rounds : BitVec 8)
  /-- BATCH_PERMUTE (R112). -/
  | batchPermute (rounds : BitVec 8)
  deriving DecidableEq, Repr

end Sys2Proof
end

