-- ==== Sys2Proof/Config.lean ====
section
/-! DEFINITION. The open parameters of the spec (R5): constants without a body, so that no proof can rest on a value
of theirs. No step of the machine reads them: R5, R21, R78 and R152 say that no result depends on them. -/

namespace Sys2Proof

/-- The number of physical `quarter_round_unit`s: 1, 4 or 16 (R5, R78). -/
inductive QrUnits where
  | one
  | four
  | sixteen
  deriving DecidableEq, Repr, Inhabited

/-- The number a `QrUnits` stands for. -/
def QrUnits.count : QrUnits → Nat
  | .one => 1
  | .four => 4
  | .sixteen => 16

/-- The three operations a command word names (R54). -/
inductive Op where
  | permuteOnly
  | permuteAndAdd
  | batchPermute
  deriving DecidableEq, Repr

/-- `BASE` (R5, R30): where the 512 bytes stand in the host's address space. -/
opaque Config.base : Nat

/-- `QR_UNITS` (R5, R78). -/
opaque Config.qrUnits : QrUnits

/-- The open part of `LATENCY` (R5, R152). -/
opaque Config.latencyBeyondOne : Op → BitVec 8 → Nat

/-- `LATENCY(op, rounds)` (R152): positive and finite, and not a function of the data in `X`. -/
def Config.latency (op : Op) (rounds : BitVec 8) : Nat := Config.latencyBeyondOne op rounds + 1

/-- The host's bus address of an offset (R30): every address of the spec is an offset from `BASE`. -/
def Config.busAddress (offset : BitVec 9) : Nat := Config.base + offset.toNat

/-- How many batch lanes an operation works on (R90, R152). -/
def Op.lanes : Op → Nat
  | .permuteOnly => 1
  | .permuteAndAdd => 1
  | .batchPermute => 4

/-- The reference arrangement's cycle count, given "for information" (R152):
`rounds * ceil(4 * lanes / QR_UNITS) + 1`. -/
def referenceLatency (units : QrUnits) (op : Op) (rounds : BitVec 8) : Nat :=
  rounds.toNat * ((4 * op.lanes + units.count - 1) / units.count) + 1

end Sys2Proof
end

