-- ==== Sys2Proof/WellFormed.lean ====
section
/-! DEFINITION. The constraint column of the opcode table: what an instruction of a row must satisfy to be executed
rather than refused (R52, R121) or turned into a fault (R120). Instructions that break it still have a meaning
(the refusal, the fault); this predicate says which are well formed. -/

namespace Sys2Proof

/-- The constraint of WR_BLOCK and RD_BLOCK (R52): `size != 3` and `addr % (1 << size) == 0`. -/
def blockAccessOk (size : BitVec 2) (addr : BitVec 8) : Bool :=
  size != 3#2 && addr.toNat % (1 <<< size.toNat) == 0

/-- The constraint of the three commands (R54, R56): the round count is even. -/
def roundsOk (rounds : BitVec 8) : Bool := !rounds.getLsbD 0

/-- The constraint column of spec/opcode_table.json, row by row. -/
def Instr.wellFormed : Instr → Bool
  | .wrCmd _ => true
  | .rdStatus => true
  | .wrBlock size addr _ => blockAccessOk size addr
  | .rdBlock size addr => blockAccessOk size addr
  | .permuteOnly rounds => roundsOk rounds
  | .permuteAndAdd rounds => roundsOk rounds
  | .batchPermute rounds => roundsOk rounds

end Sys2Proof
end

