-- ==== Sys2Proof/Decode.lean ====
section
/-! DEFINITION. The two decoders (R50): format BUS (R51, R52) and format CMD (R53, R54), each total and rejecting by
name, the encoder written from the same tables, and the host's numbering of table words. -/

namespace Sys2Proof

/-- Why a word is no row of the opcode table. -/
inductive Reject where
  /-- A descriptor with `addr[8] = 1` that is neither WR_CMD nor RD_STATUS (R52): the access is refused. -/
  | noBusRow
  /-- `cmd[31:12] != 0` (R56): ERR_ILLEGAL_CMD when written. -/
  | reservedBits
  /-- `cmd[11:8]` is 0x0 or 0x4 to 0xF (R54, R56): ERR_ILLEGAL_CMD when written. -/
  | reservedOp
  /-- A table word with bits above its format's width. -/
  | tooWide
  deriving DecidableEq, Repr

/-- A row of a decode table: the bits tested and their values (R52, R54). -/
structure Row (n : Nat) where
  pattern : BitVec n
  mask    : BitVec n
  deriving DecidableEq, Repr

/-- `w` matches the row. -/
def Row.fits {n : Nat} (r : Row n) (w : BitVec n) : Bool := w &&& r.mask == r.pattern

def rowWrCmd : Row 12 := ⟨0xD00#12, 0xFFF#12⟩
def rowRdStatus : Row 12 := ⟨0x504#12, 0xFFF#12⟩
def rowWrBlock : Row 12 := ⟨0x800#12, 0x900#12⟩
def rowRdBlock : Row 12 := ⟨0x000#12, 0x900#12⟩
def rowPermuteOnly : Row 32 := ⟨0x00000100#32, 0xFFFFFF00#32⟩
def rowPermuteAndAdd : Row 32 := ⟨0x00000200#32, 0xFFFFFF00#32⟩
def rowBatchPermute : Row 32 := ⟨0x00000300#32, 0xFFFFFF00#32⟩

/-- The rows of format BUS in the table's order (R52). -/
def busRows : List (Row 12) := [rowWrCmd, rowRdStatus, rowWrBlock, rowRdBlock]

/-- The rows of format CMD in the table's order (R54). -/
def cmdRows : List (Row 32) := [rowPermuteOnly, rowPermuteAndAdd, rowBatchPermute]

/-- The descriptor `D[11:0] = {we, size[1:0], addr[8:0]}` of an access (R51). -/
def Access.descriptor (a : Access) : BitVec 12 := BitVec.ofBool a.we ++ a.size ++ a.addr

/-- The access with a given descriptor and write data (R51). -/
def Access.ofDescriptor (d : BitVec 12) (wdata : Word) : Access :=
  { we := d.getLsbD 11, size := d.extractLsb' 9 2, addr := d.extractLsb' 0 9, wdata := wdata }

/-- Decode of format BUS (R52): the first row the descriptor matches. The row's constraint is not looked at here:
a descriptor that breaks it is refused by the row's meaning (R100, R101, R121). -/
def decodeBus (d : BitVec 12) (wdata : Word) : Except Reject Instr :=
  if rowWrCmd.fits d then .ok (.wrCmd wdata)
  else if rowRdStatus.fits d then .ok .rdStatus
  else if rowWrBlock.fits d then .ok (.wrBlock (d.extractLsb' 9 2) (d.extractLsb' 0 8) wdata)
  else if rowRdBlock.fits d then .ok (.rdBlock (d.extractLsb' 9 2) (d.extractLsb' 0 8))
  else .error .noBusRow

/-- `RSV = cmd[31:12]` (R53). -/
def cmdRsv (cmd : Word) : BitVec 20 := cmd.extractLsb' 12 20

/-- `OP = cmd[11:8]` (R53). -/
def cmdOp (cmd : Word) : BitVec 4 := cmd.extractLsb' 8 4

/-- `ROUNDS = cmd[7:0]`, used as it stands (R53, R55). -/
def cmdRounds (cmd : Word) : BitVec 8 := cmd.extractLsb' 0 8

/-- The operation an OP field names (R54). -/
def opOfField (op : BitVec 4) : Option Op :=
  if op = 0x1#4 then some .permuteOnly
  else if op = 0x2#4 then some .permuteAndAdd
  else if op = 0x3#4 then some .batchPermute
  else none

/-- The OP field of an operation (R54). -/
def Op.field : Op → BitVec 4
  | .permuteOnly => 0x1#4
  | .permuteAndAdd => 0x2#4
  | .batchPermute => 0x3#4

/-- The command instruction of an operation and a round count. -/
def Op.instr : Op → BitVec 8 → Instr
  | .permuteOnly, r => .permuteOnly r
  | .permuteAndAdd, r => .permuteAndAdd r
  | .batchPermute, r => .batchPermute r

/-- Decode of format CMD (R54, R56). An odd round count is still the row's instruction: it faults when written (R120). -/
def decodeCmd (cmd : Word) : Except Reject Instr :=
  if cmdRsv cmd ≠ 0#20 then .error .reservedBits
  else
    match opOfField (cmdOp cmd) with
    | none => .error .reservedOp
    | some op => .ok (op.instr (cmdRounds cmd))

/-- The command word of an operation and a round count, `{RSV, OP, ROUNDS}` (R53, R61). -/
def Op.commandWord (op : Op) (rounds : BitVec 8) : Word := 0#20 ++ op.field ++ rounds

/-- The access that writes a command word: `WR32 0x100, v` (R60). -/
def cmdAccess (word : Word) : Access := Access.ofDescriptor 0xD00#12 word

/-- Both decoders one after the other (R50): the bus access, then, for a CMD write, the command word it carries.
A CMD write whose word is no command stays WR_CMD, whose meaning faults (R103). -/
def decodeAccess (a : Access) : Except Reject Instr :=
  match decodeBus a.descriptor a.wdata with
  | .ok (.wrCmd word) =>
    match decodeCmd word with
    | .ok i => .ok i
    | .error _ => .ok (.wrCmd word)
  | other => other

/-- The access that presents an instruction (R51, R53, R60, R61). A read drives no write data. -/
def encode : Instr → Access
  | .wrCmd word => cmdAccess word
  | .rdStatus => Access.ofDescriptor 0x504#12 0#32
  | .wrBlock size addr wdata => { we := true, size := size, addr := 0#1 ++ addr, wdata := wdata }
  | .rdBlock size addr => { we := false, size := size, addr := 0#1 ++ addr, wdata := 0#32 }
  | .permuteOnly rounds => cmdAccess (Op.permuteOnly.commandWord rounds)
  | .permuteAndAdd rounds => cmdAccess (Op.permuteAndAdd.commandWord rounds)
  | .batchPermute rounds => cmdAccess (Op.batchPermute.commandWord rounds)

/-- The access a table word stands for: up to 16 bits a BUS descriptor (12 bits in two whole bytes) with write data 0,
otherwise a command word written to CMD. -/
def accessOfTableWord (nbits w : Nat) : Except Reject Access :=
  if nbits ≤ 16 then
    if w < 2 ^ 12 then .ok (Access.ofDescriptor (BitVec.ofNat 12 w) 0#32) else .error .tooWide
  else if w < 2 ^ 32 then .ok (cmdAccess (BitVec.ofNat 32 w)) else .error .tooWide

/-- The instruction the decoder reads from a word numbered as spec/opcode_table.json numbers it. -/
def decodeTableWord (nbits w : Nat) : Option Instr :=
  match accessOfTableWord nbits w with
  | .error _ => none
  | .ok a =>
    match decodeAccess a with
    | .ok i => some i
    | .error _ => none

end Sys2Proof
end

