-- ==== Sys2Proof/Machine/State.lean ====
section
/-! DEFINITION. The machine's state, as plain data: every piece of state of R140, the bus port of R19, and the
host's events still to come (R21). -/

namespace Sys2Proof.Machine

/-- `SEQ` (R16). -/
inductive Seq where
  /-- No command in progress. -/
  | idle
  /-- A command was accepted and has not completed. -/
  | run
  /-- A CMD write raised a fault; left only by reset. -/
  | fault
  deriving DecidableEq, Repr

/-- What the output pins `ack`, `resp_err`, `rdata` say after a step (R19, R121).
`rdata` stands only where R19 calls it valid. -/
inductive BusReply where
  /-- `ack = 0`: no access, or a held one (R39). -/
  | noAck
  /-- `ack = 1`, `resp_err = 1`, `rdata = 0` (R121). -/
  | refused
  /-- `ack = 1`, `resp_err = 0`, a write. -/
  | written
  /-- `ack = 1`, `resp_err = 0`, a read with these `rdata` pins. -/
  | read (rdata : Word)
  deriving DecidableEq, Repr

/-- What the world outside does next (R10, R19, R63, R141). -/
inductive HostEvent where
  /-- The host presents this access. -/
  | access (a : Access)
  /-- Nothing is presented in this step; the sequencer moves if it can. -/
  | wait
  /-- WAIT_DONE (R63): read STATUS until BUSY is 0. -/
  | waitDone
  /-- `rst_n` goes low and high again (R141). -/
  | reset
  deriving DecidableEq, Repr

/-- The reasons to stop with a fault: none. The engine's own faults ERR_ODD_ROUNDS and ERR_ILLEGAL_CMD (R120) and its
refused accesses (R121) are next states, because the spec describes what the engine does and it goes on serving
accesses. No step raises a `Fault`; having none is safe. -/
inductive Fault where
  deriving DecidableEq, Repr

/-- The reasons to refuse a meaning. -/
inductive Refusal where
  /-- An instruction of the opcode table without a meaning, raised by an arm of `exec` only; no arm raises it, since
  every instruction has its meaning. Safe. -/
  | notModelled (mnemonic : String)
  deriving DecidableEq, Repr

/-- The state (spec/10_state.md; the reset table is R140). -/
structure State where
  /-- `X[k][j]`, the state matrix register (R11). -/
  x : Lanes
  /-- `P[j]`, the pre-permutation copy (R13). -/
  p : Block
  /-- `RC`, rounds still to run (R14). -/
  rc : BitVec 8
  /-- `PH`, 1 when the next round is a diagonal-phase round (R15). -/
  ph : Bool
  /-- `OPADD`, 1 for PERMUTE_AND_ADD (R15). -/
  opadd : Bool
  /-- `OPBATCH`, 1 for BATCH_PERMUTE (R15). -/
  opbatch : Bool
  /-- `SEQ` (R16). -/
  seq : Seq
  /-- `DONE` (R17). -/
  done : Bool
  /-- `ERRCODE` (R17). -/
  errcode : BitVec 4
  /-- The access on the input pins that is held, waiting for `ack` (R19, R39). -/
  port : Option Access
  /-- The output pins `ack`, `resp_err`, `rdata` of the step just taken (R19). -/
  reply : BusReply
  /-- The host's events still to come, the model's own field (R21). -/
  host : List HostEvent
  /-- How many accesses of this run were refused, the mark R121 asks for; the model's own field. -/
  refusals : Nat
  deriving DecidableEq, Repr

/-- A block whose 16 words are all `w`. -/
def blockOf (w : Word) : Block := ⟨⟨w, w, w, w⟩, ⟨w, w, w, w⟩, ⟨w, w, w, w⟩, ⟨w, w, w, w⟩⟩

/-- The state right after reset (R140): every word 0, SEQ IDLE, nothing on the port; no host events. -/
def State.reset : State where
  x := ⟨blockOf 0, blockOf 0, blockOf 0, blockOf 0⟩
  p := blockOf 0
  rc := 0
  ph := false
  opadd := false
  opbatch := false
  seq := .idle
  done := false
  errcode := 0
  port := none
  reply := .noAck
  host := []
  refusals := 0

end Sys2Proof.Machine
end

