-- ==== Sys2Proof/Machine/Matrix.lean ====
section
/-! DEFINITION. Reading and writing the four-element record, a block by word index, and `X` by lane and word (R7,
R11, R12). -/

namespace Sys2Proof

/-- Element `i`. -/
def Quad.get {α : Type} (v : Quad α) (i : Fin 4) : α :=
  match i with
  | 0 => v.q0
  | 1 => v.q1
  | 2 => v.q2
  | 3 => v.q3

/-- `v` with element `i` replaced. -/
def Quad.set {α : Type} (v : Quad α) (i : Fin 4) (a : α) : Quad α :=
  match i with
  | 0 => { v with q0 := a }
  | 1 => { v with q1 := a }
  | 2 => { v with q2 := a }
  | 3 => { v with q3 := a }

/-- The four values of a function. -/
def Quad.ofFn {α : Type} (f : Fin 4 → α) : Quad α := ⟨f 0, f 1, f 2, f 3⟩

/-- A function applied to each element. -/
def Quad.map {α β : Type} (f : α → β) (v : Quad α) : Quad β := ⟨f v.q0, f v.q1, f v.q2, f v.q3⟩

/-- A function applied to the elements of two records in step. -/
def Quad.zipWith {α β γ : Type} (f : α → β → γ) (v : Quad α) (w : Quad β) : Quad γ :=
  ⟨f v.q0 w.q0, f v.q1 w.q1, f v.q2 w.q2, f v.q3 w.q3⟩

/-- The row of word `j`, `j / 4` (R7). -/
def rowIndex (j : Fin 16) : Fin 4 := ⟨j.val / 4, by omega⟩

/-- The column of word `j`, `j % 4` (R7). -/
def colIndex (j : Fin 16) : Fin 4 := ⟨j.val % 4, by omega⟩

/-- Word `j` of a 16-word list, row-major: `x[j]` (R7). -/
def Quad.word {α : Type} (x : Matrix4 α) (j : Fin 16) : α := (Quad.get x (rowIndex j)).get (colIndex j)

/-- `x` with `x[j] <- v` (R7). -/
def Quad.setWord {α : Type} (x : Matrix4 α) (j : Fin 16) (v : α) : Matrix4 α :=
  Quad.set x (rowIndex j) ((Quad.get x (rowIndex j)).set (colIndex j) v)

/-- The 16-word list with a given word at each index. -/
def Quad.ofWords {α : Type} (f : Fin 16 → α) : Matrix4 α :=
  ⟨⟨f 0, f 1, f 2, f 3⟩, ⟨f 4, f 5, f 6, f 7⟩, ⟨f 8, f 9, f 10, f 11⟩, ⟨f 12, f 13, f 14, f 15⟩⟩

/-- Word by word on two blocks. -/
def Quad.zipWords {α : Type} (f : α → α → α) (x y : Matrix4 α) : Matrix4 α := Quad.zipWith (Quad.zipWith f) x y

/-- The QuadLane view of four lanes: `Q[j] = (X[0][j], X[1][j], X[2][j], X[3][j])` (R12). -/
def quadLanes (x : Lanes) : Matrix4 (Quad Word) :=
  Quad.ofWords fun j => Quad.ofFn fun k => (Quad.get x k).word j

/-- `X[k][j]` (R7, R11). -/
def Machine.State.word (s : Machine.State) (k : Fin 4) (j : Fin 16) : Word := (s.x.get k).word j

/-- `X[k][j] <- v` (R7). -/
def Machine.State.setWord (s : Machine.State) (k : Fin 4) (j : Fin 16) (v : Word) : Machine.State :=
  { s with x := s.x.set k ((s.x.get k).setWord j v) }

end Sys2Proof
end

