-- ==== Sys2Proof/Machine/Flags.lean ====
section
/-! DEFINITION. The status flags, the STATUS word and the output pins. The engine has no arithmetic flags (R17). -/

namespace Sys2Proof.Machine

/-- `BUSY = (SEQ == RUN)` (R17). -/
def State.busy (s : State) : Bool := s.seq == .run

/-- `ERR = (SEQ == FAULT)` (R17). -/
def State.err (s : State) : Bool := s.seq == .fault

/-- STATUS (R57, R105): `{ 0[31:8], ERRCODE[3:0], 0, (SEQ == FAULT), DONE, (SEQ == RUN) }`. -/
def State.status (s : State) : Word :=
  0#24 ++ s.errcode ++ 0#1 ++ BitVec.ofBool s.err ++ BitVec.ofBool s.done ++ BitVec.ofBool s.busy

/-- The level output `busy` (R19, R126). -/
def State.busyPin (s : State) : Bool := s.status.getLsbD 0

/-- The level output `done` (R19, R126). -/
def State.donePin (s : State) : Bool := s.status.getLsbD 1

/-- The level output `error` (R19, R126). -/
def State.errorPin (s : State) : Bool := s.status.getLsbD 2

/-- The output pin `ack` (R19). -/
def BusReply.ack : BusReply → Bool
  | .noAck => false
  | .refused => true
  | .written => true
  | .read _ => true

/-- The output pin `resp_err`, valid with `ack` (R19, R121). -/
def BusReply.respErr : BusReply → Option Bool
  | .noAck => none
  | .refused => some true
  | .written => some false
  | .read _ => some false

/-- The output pins `rdata`, valid with `ack` on a read, all 0 on a refused access (R19, R121). -/
def BusReply.rdata : BusReply → Option Word
  | .noAck => none
  | .refused => some 0#32
  | .written => none
  | .read r => some r

end Sys2Proof.Machine
end

