-- ==== Sys2Proof/Machine/Operands.lean ====
section
/-! DEFINITION. The operands of a bus access: the size code, the lane, word and byte an offset names (R32, R51), the
byte lanes of the data pins (R19), and the bytes of a word. -/

namespace Sys2Proof.Machine

/-- The number of bytes of a size code (R19, R51): 1, 2, 4; code 3 gives 8, which no access allows. -/
def sizeBytes (size : BitVec 2) : Nat := 1 <<< size.toNat

/-- The offset of a block access, `addr[8] = 0` (R52). -/
def blockOffset (addr : BitVec 8) : BitVec 9 := 0#1 ++ addr

/-- `k = addr / 64`, for an offset of a block window (R33). -/
def laneOf (addr : BitVec 9) : Fin 4 := ⟨addr.toNat / 64 % 4, by omega⟩

/-- `j = (addr % 64) / 4` (R33). -/
def wordOf (addr : BitVec 9) : Fin 16 := ⟨addr.toNat % 64 / 4, by omega⟩

/-- `i = addr % 4` (R33). -/
def byteOf (addr : BitVec 9) : Nat := addr.toNat % 4

/-- The low `8n` bits of a word. -/
def lowBytes (n : Nat) : Word := BitVec.ofNat 32 (2 ^ (8 * n) - 1)

/-- `w[8*(i+n)-1 : 8*i]`, zero-extended (R33, R101). -/
def takeBytes (w : Word) (i n : Nat) : Word := (w >>> (8 * i)) &&& lowBytes n

/-- `w` with `w[8*(i+n)-1 : 8*i] <- v`, the other bits kept (R34, R100). -/
def putBytes (w : Word) (i n : Nat) (v : Word) : Word :=
  (w &&& ~~~(lowBytes n <<< (8 * i))) ||| ((v &&& lowBytes n) <<< (8 * i))

/-- The `8n`-bit value that the byte lanes of `wdata` carry for an access at `addr` (R19). -/
def fromByteLanes (addr : BitVec 9) (n : Nat) (pins : Word) : Word := takeBytes pins (byteOf addr) n

/-- A value on the byte lanes of `rdata` or `wdata` for an access at `addr`, other bits 0 (R19, R101). -/
def toByteLanes (addr : BitVec 9) (v : Word) : Word := v <<< (8 * byteOf addr)

/-- Byte `i` of a word: bits `8i+7 : 8i` (R32). -/
def byteOfWord (w : Word) (i : Nat) : Byte := w.extractLsb' (8 * i) 8

/-- A word from its four bytes, little-endian (R32, R102). -/
def wordOfBytes (b0 b1 b2 b3 : Byte) : Word := b3 ++ b2 ++ b1 ++ b0

/-- The window byte at an offset below 0x100: bits `8i+7 : 8i` of `X[k][j]` (R32, R36). -/
def State.windowByte (s : State) (addr : BitVec 8) : Byte :=
  let a := blockOffset addr
  byteOfWord (s.word (laneOf a) (wordOf a)) (byteOf a)

/-- `decode` (R102): `decode(b)[j] = b[4j] + 2^8 b[4j+1] + 2^16 b[4j+2] + 2^24 b[4j+3]`. -/
def decodeBlock (b : Fin 64 → Byte) : Block :=
  Quad.ofWords fun j =>
    wordOfBytes (b ⟨4 * j.val, by omega⟩) (b ⟨4 * j.val + 1, by omega⟩) (b ⟨4 * j.val + 2, by omega⟩)
      (b ⟨4 * j.val + 3, by omega⟩)

/-- `encode` (R102): `encode(w)[4j + i] = w[j][8i+7 : 8i]`. -/
def encodeBlock (w : Block) (m : Fin 64) : Byte := byteOfWord (w.word ⟨m.val / 4, by omega⟩) (m.val % 4)

end Sys2Proof.Machine
end

