-- ==== Sys2Proof/Machine/LaneOps.lean ====
section
/-! DEFINITION. The lane operations (spec/40_lane_ops.md): the sub-blocks `wordwise_adder_32bit`, `xor_mixer`,
`rotator_left_32bit`, their four-lane forms, and the inverse of the addition. None has a flag or an exception. -/

namespace Sys2Proof

/-- ADD32, `wordwise_adder_32bit` (R65): addition modulo 2^32. -/
def add32 (a b : Word) : Word := a + b

/-- XOR32, `xor_mixer` (R66). -/
def xor32 (a b : Word) : Word := a ^^^ b

/-- ROTL32, `rotator_left_32bit` (R67), its amount on the five-bit port `amt` (R58); amount 0 is the identity. -/
def rotl32 (x : Word) (amt : BitVec 5) : Word :=
  if amt = 0#5 then x else (x <<< amt.toNat) ||| (x >>> (32 - amt.toNat))

/-- SUB32, which undoes ADD32 (R70). -/
def sub32 (s b : Word) : Word := s - b

/-- ADD32x4 (R68). -/
def add32x4 (a b : Quad Word) : Quad Word := Quad.zipWith add32 a b

/-- XOR32x4 (R68). -/
def xor32x4 (a b : Quad Word) : Quad Word := Quad.zipWith xor32 a b

/-- ROTL32x4 (R68): one amount for all four lanes. -/
def rotl32x4 (a : Quad Word) (amt : BitVec 5) : Quad Word := a.map fun w => rotl32 w amt

end Sys2Proof
end

