-- ==== Sys2Proof/Machine/QuarterRound.lean ====
section
/-! DEFINITION. The quarter round (spec/41_quarter_round.md), `quarter_round_unit`: on words, on QuadLane values, and
its inverse. A result `(a, b, c, d)` is a `Quad` in that order. -/

namespace Sys2Proof

/-- QR (R75). -/
def qr (a0 b0 c0 d0 : Word) : Quad Word :=
  let a1 := add32 a0 b0
  let d1 := rotl32 (xor32 d0 a1) 16#5
  let c1 := add32 c0 d1
  let b1 := rotl32 (xor32 b0 c1) 12#5
  let a2 := add32 a1 b1
  let d2 := rotl32 (xor32 d1 a2) 8#5
  let c2 := add32 c1 d2
  let b2 := rotl32 (xor32 b1 c2) 7#5
  ⟨a2, b2, c2, d2⟩

/-- QRx4 (R77): rule R75 with the four-lane operations; also the row operations of R87. -/
def qrx4 (a0 b0 c0 d0 : Quad Word) : Quad (Quad Word) :=
  let a1 := add32x4 a0 b0
  let d1 := rotl32x4 (xor32x4 d0 a1) 16#5
  let c1 := add32x4 c0 d1
  let b1 := rotl32x4 (xor32x4 b0 c1) 12#5
  let a2 := add32x4 a1 b1
  let d2 := rotl32x4 (xor32x4 d1 a2) 8#5
  let c2 := add32x4 c1 d2
  let b2 := rotl32x4 (xor32x4 b1 c2) 7#5
  ⟨a2, b2, c2, d2⟩

/-- QRINV (R79): each step undoes one line of R75, last line first. The engine does not implement it. -/
def qrinv (a2 b2 c2 d2 : Word) : Quad Word :=
  let b1 := xor32 (rotl32 b2 25#5) c2
  let c1 := sub32 c2 d2
  let d1 := xor32 (rotl32 d2 24#5) a2
  let a1 := sub32 a2 b1
  let b0 := xor32 (rotl32 b1 20#5) c1
  let c0 := sub32 c1 d1
  let d0 := xor32 (rotl32 d1 16#5) a1
  let a0 := sub32 a1 b0
  ⟨a0, b0, c0, d0⟩

end Sys2Proof
end

