-- ==== Sys2Proof/Machine/Rounds.lean ====
section
/-! DEFINITION. The reference function (R80 to R84), generic in the lane value as the document's algorithm is
(R77, R111), the row-vectorized datapath (R86 to R88), and the batch promotion (R110, R111). -/

namespace Sys2Proof

/-- A quarter round on lane values of some kind (R75, R77). -/
abbrev QuarterRound (α : Type) := α → α → α → α → Quad α

/-- `y` with the words at four indices replaced by the quarter round of the words of `x` at those indices. -/
def qrAt {α : Type} (q : QuarterRound α) (x y : Matrix4 α) (ia ib ic id : Fin 16) : Matrix4 α :=
  let r := q (x.word ia) (x.word ib) (x.word ic) (x.word id)
  (((y.setWord ia r.q0).setWord ib r.q1).setWord ic r.q2).setWord id r.q3

/-- One quarter round of a column phase, column `i`: words `(i, 4+i, 8+i, 12+i)` (R80). -/
def colQr {α : Type} (q : QuarterRound α) (x y : Matrix4 α) (i : Fin 4) : Matrix4 α :=
  qrAt q x y ⟨i.val, by omega⟩ ⟨4 + i.val, by omega⟩ ⟨8 + i.val, by omega⟩ ⟨12 + i.val, by omega⟩

/-- One quarter round of a diagonal phase, diagonal `i`: words `(i, 4+(i+1)%4, 8+(i+2)%4, 12+(i+3)%4)` (R81). -/
def diagQr {α : Type} (q : QuarterRound α) (x y : Matrix4 α) (i : Fin 4) : Matrix4 α :=
  qrAt q x y ⟨i.val, by omega⟩ ⟨4 + (i.val + 1) % 4, by omega⟩ ⟨8 + (i.val + 2) % 4, by omega⟩
    ⟨12 + (i.val + 3) % 4, by omega⟩

/-- The column phase over any quarter round: reads from `x`, writes to `y`, for `i = 0, 1, 2, 3` (R80). -/
def colroundWith {α : Type} (q : QuarterRound α) (x : Matrix4 α) : Matrix4 α :=
  [0, 1, 2, 3].foldl (fun y i => colQr q x y i) x

/-- The diagonal phase over any quarter round (R81). -/
def diagroundWith {α : Type} (q : QuarterRound α) (x : Matrix4 α) : Matrix4 α :=
  [0, 1, 2, 3].foldl (fun y i => diagQr q x y i) x

/-- The double round over any quarter round: columns first, diagonals second (R82). -/
def doubleroundWith {α : Type} (q : QuarterRound α) (x : Matrix4 α) : Matrix4 α := diagroundWith q (colroundWith q x)

/-- `n` double rounds over any quarter round. -/
def doubleRoundsWith {α : Type} (q : QuarterRound α) : Nat → Matrix4 α → Matrix4 α
  | 0, x => x
  | n + 1, x => doubleRoundsWith q n (doubleroundWith q x)

/-- COLROUND (R80). -/
def colround (x : Block) : Block := colroundWith qr x

/-- DIAGROUND (R81). -/
def diaground (x : Block) : Block := diagroundWith qr x

/-- DOUBLEROUND (R82). -/
def doubleround (x : Block) : Block := doubleroundWith qr x

/-- PERMUTE (R83): `rounds / 2` double rounds. The rules use it for even `rounds` only. -/
def permute (x : Block) (rounds : Nat) : Block := doubleRoundsWith qr (rounds / 2) x

/-- The inverse of COLROUND: QRINV on the four columns (R84). -/
def colroundInv (x : Block) : Block := colroundWith qrinv x

/-- The inverse of DIAGROUND: QRINV on the four diagonals (R84). -/
def diagroundInv (x : Block) : Block := diagroundWith qrinv x

/-- `n` inverse double rounds, diagonals first (R84). -/
def doubleRoundsInv : Nat → Block → Block
  | 0, x => x
  | n + 1, x => doubleRoundsInv n (colroundInv (diagroundInv x))

/-- The inverse of `PERMUTE(., rounds)` (R84). -/
def permuteInv (x : Block) (rounds : Nat) : Block := doubleRoundsInv (rounds / 2) x

/-- A column phase by one quarter round unit, one quarter round after the other in place, in a given order (R78, R85). -/
def colroundInOrder (order : List (Fin 4)) (x : Block) : Block := order.foldl (fun y i => colQr qr y y i) x

/-- A diagonal phase by one quarter round unit, in a given order (R78, R85). -/
def diagroundInOrder (order : List (Fin 4)) (x : Block) : Block := order.foldl (fun y i => diagQr qr y y i) x

/-- LANEROT (R86): `LANEROT(r, n)[i] = r[(i + n) % 4]`. -/
def lanerot {α : Type} (r : Quad α) (n : Fin 4) : Quad α := Quad.ofFn fun i => r.get (i + n)

/-- ROWQR (R87): one quarter round per row lane. -/
def rowqr (x : Block) : Block :=
  let q : Fin 4 → Quad Word := fun i => qr (x.q0.get i) (x.q1.get i) (x.q2.get i) (x.q3.get i)
  ⟨Quad.ofFn fun i => (q i).q0, Quad.ofFn fun i => (q i).q1, Quad.ofFn fun i => (q i).q2, Quad.ofFn fun i => (q i).q3⟩

/-- `S(x)`: the rows stored in diagonal order (R89). -/
def diagonalOrder (x : Block) : Block := ⟨x.q0, lanerot x.q1 1, lanerot x.q2 2, lanerot x.q3 3⟩

/-- ROWROUND (R88): row quarter round, then into diagonal order after a column phase (`ph` 0) or back to column order
after a diagonal phase (`ph` 1). -/
def rowround (x : Block) (ph : Bool) : Block :=
  let y := rowqr x
  if ph then ⟨y.q0, lanerot y.q1 3, lanerot y.q2 2, lanerot y.q3 1⟩
  else ⟨y.q0, lanerot y.q1 1, lanerot y.q2 2, lanerot y.q3 3⟩

/-- `n` applications of ROWROUND with the phase alternating from `ph` (R89). -/
def rowRounds : Nat → Bool → Block → Block
  | 0, _, x => x
  | n + 1, ph, x => rowRounds n (!ph) (rowround x ph)

/-- The final addition: word by word, each modulo 2^32, no carry between words (R93, R95). -/
def addWords (x y : Block) : Block := Quad.zipWords add32 x y

/-- Lane `k` of PROMOTE (R110): the base with `k` added to word 12, the low counter word. -/
def promoteLane (base : Block) (k : Fin 4) : Block := base.setWord 12 (add32 (base.word 12) (BitVec.ofNat 32 k.val))

/-- PROMOTE (R110). -/
def promote (base : Block) : Lanes := Quad.ofFn (promoteLane base)

/-- BATCH (R111): `BATCH(base, rounds)[k] = PERMUTE(PROMOTE(base)[k], rounds)`. -/
def batch (base : Block) (rounds : Nat) : Lanes := (promote base).map fun x => permute x rounds

end Sys2Proof
end

