-- ==== Sys2Proof/Machine/Ops.lean ====
section
/-! DEFINITION. The named operations: the two access primitives (R33, R34) and the answers on the port (R19, R39, R121),
fault entry (R124), the command write (R103) and acceptance (R104), the sequencer's steps (R90, R93), reset (R141). -/

namespace Sys2Proof.Machine

/-- What `MemRead` says (R33). -/
inductive ReadResult where
  /-- `refuse BusError` (R121). -/
  | refused
  /-- Held while SEQ is RUN (R39). -/
  | held
  /-- The value read, an unsigned `8n`-bit value. -/
  | value (v : Word)
  deriving DecidableEq, Repr

/-- What `MemWrite` says (R34). -/
inductive WriteResult where
  /-- `refuse BusError` (R121). -/
  | refused
  /-- Held while SEQ is RUN (R39). -/
  | held
  /-- The write is performed and leaves this state. -/
  | performed (s : State)
  deriving DecidableEq, Repr

/-- Fault entry `raise Fault(code)` (R124): ERRCODE and SEQ change and nothing else. -/
def State.raiseFault (s : State) (code : BitVec 4) : State := { s with errcode := code, seq := .fault }

/-- ERR_ODD_ROUNDS (R120). -/
def errOddRounds : BitVec 4 := 1#4

/-- ERR_ILLEGAL_CMD (R120). -/
def errIllegalCmd : BitVec 4 := 2#4

/-- The promotion part of acceptance (R104): lanes 1, 2, 3 get lane 0's words with the lane number added to word 12;
lane 0 is left alone. -/
def promoteLanes (x : Lanes) : Lanes :=
  { x with q1 := promoteLane x.q0 1, q2 := promoteLane x.q0 2, q3 := promoteLane x.q0 3 }

/-- `Accept(op, rounds)` (R104). -/
def State.accept (s : State) (op : Op) (rounds : BitVec 8) : State :=
  { s with
    p := s.x.q0
    x := if op = .batchPermute then promoteLanes s.x else s.x
    rc := rounds
    ph := false
    opadd := op == .permuteAndAdd
    opbatch := op == .batchPermute
    done := false
    seq := .run }

/-- A command with its round count, in IDLE: an odd count raises ERR_ODD_ROUNDS (R120, R124) before anything else
changes, an even one is accepted (R104). -/
def State.startCommand (s : State) (op : Op) (rounds : BitVec 8) : State :=
  if rounds.getLsbD 0 then s.raiseFault errOddRounds else s.accept op rounds

/-- `WriteCmd(v)` (R103), with the priority of R123: an illegal word first, then an odd round count. -/
def State.writeCmd (s : State) (v : Word) : State :=
  if cmdRsv v ≠ 0#20 then s.raiseFault errIllegalCmd
  else
    match opOfField (cmdOp v) with
    | none => s.raiseFault errIllegalCmd
    | some op => if v.getLsbD 0 then s.raiseFault errOddRounds else s.accept op (cmdRounds v)

/-- A well-formed CMD write (R34 branch 5, R39, R40): held while RUN, refused in FAULT, otherwise performed. -/
def State.cmdWrite (s : State) (perform : State → State) : WriteResult :=
  match s.seq with
  | .run => .held
  | .fault => .refused
  | .idle => .performed (perform s)

/-- `MemRead(addr, n)` (R33): the checks in order, the first that applies decides. -/
def State.memRead (s : State) (addr : BitVec 9) (n : Nat) : ReadResult :=
  let a := addr.toNat
  if ¬ (n = 1 ∨ n = 2 ∨ n = 4) then .refused
  else if a % n ≠ 0 then .refused
  else if 0x108 ≤ a then .refused
  else if 0x100 ≤ a ∧ a ≤ 0x103 then .refused
  else if 0x104 ≤ a ∧ a ≤ 0x107 then (if n ≠ 4 then .refused else .value s.status)
  else if s.seq = .run then .held
  else .value (takeBytes (s.word (laneOf addr) (wordOf addr)) (byteOf addr) n)

/-- A block-window write (R34 branch 6): the named bits of one word of `X` and nothing else. -/
def State.writeWindow (s : State) (addr : BitVec 9) (n : Nat) (v : Word) : State :=
  s.setWord (laneOf addr) (wordOf addr) (putBytes (s.word (laneOf addr) (wordOf addr)) (byteOf addr) n v)

/-- `MemWrite(addr, n, v)` (R34): the checks in order, the first that applies decides. -/
def State.memWrite (s : State) (addr : BitVec 9) (n : Nat) (v : Word) : WriteResult :=
  let a := addr.toNat
  if ¬ (n = 1 ∨ n = 2 ∨ n = 4) then .refused
  else if a % n ≠ 0 then .refused
  else if 0x108 ≤ a then .refused
  else if 0x104 ≤ a ∧ a ≤ 0x107 then .refused
  else if 0x100 ≤ a ∧ a ≤ 0x103 then (if n ≠ 4 then .refused else s.cmdWrite fun t => t.writeCmd v)
  else if s.seq = .run then .held
  else .performed (s.writeWindow addr n v)

/-- A refused access (R121): acknowledged with `resp_err = 1`, no state of the engine changed, the run marked. -/
def State.refuse (s : State) : State := { s with port := none, reply := .refused, refusals := s.refusals + 1 }

/-- A held access (R39): no `ack`, the access stays on the pins (R19). -/
def State.hold (s : State) (a : Access) : State := { s with port := some a, reply := .noAck }

/-- The step's answer to a read access on the port, `rdata` on its byte lanes (R19, R101). -/
def State.answerRead (s : State) (a : Access) : ReadResult → Host.Outcome State Fault Refusal
  | .refused => .next s.refuse
  | .held => .next (s.hold a)
  | .value v => .next { s with port := none, reply := .read (toByteLanes a.addr v) }

/-- The step's answer to a write access on the port (R19). -/
def State.answerWrite (s : State) (a : Access) : WriteResult → Host.Outcome State Fault Refusal
  | .refused => .next s.refuse
  | .held => .next (s.hold a)
  | .performed t => .next { t with port := none, reply := .written }

/-- The round step (R90): every lane of `L` takes ROWROUND, RC counts down, PH is inverted. -/
def State.roundStep (s : State) : State :=
  { s with
    x := if s.opbatch then s.x.map (fun b => rowround b s.ph) else { s.x with q0 := rowround s.x.q0 s.ph }
    rc := s.rc - 1#8
    ph := !s.ph }

/-- The completion step (R93): the final addition on lane 0 when OPADD is 1, then IDLE with DONE set. -/
def State.completionStep (s : State) : State :=
  { s with
    x := if s.opadd then { s.x with q0 := addWords s.x.q0 s.p } else s.x
    seq := .idle
    done := true }

/-- The sequencer's move (R90, R91, R93): a round step or the completion step in RUN; in IDLE and FAULT "the engine
simply makes no step" (R128). -/
def State.sequencer (s : State) : State :=
  match s.seq with
  | .run => if s.rc = 0#8 then s.completionStep else s.roundStep
  | .idle => s
  | .fault => s

/-- A turn in which no access is acknowledged: the sequencer moves, `ack` is 0. -/
def State.sequencerTurn (s : State) : State := { s.sequencer with reply := .noAck }

/-- The reset step (R141): every piece of the engine's state to the table of R140, a held access dropped without `ack`.
The access cut off is treated as refused (U15 of 93_implementation_defined.md): the run is marked. The host's later
events and the mark are no state of the engine and stay. -/
def State.resetStep (s : State) : State :=
  { State.reset with host := s.host, refusals := if s.port.isSome then s.refusals + 1 else s.refusals }

end Sys2Proof.Machine
end

