-- ==== Sys2Proof/Machine/BlockAccess.lean ====
section
/-! DEFINITION. The block-window accesses WR_BLOCK and RD_BLOCK (R100, R101). -/

namespace Sys2Proof.Machine

/-- WR_BLOCK (R100): `MemWrite(addr, n, v)` with `v` taken from the byte lanes of `wdata`. -/
def execWrBlock (size : BitVec 2) (addr : BitVec 8) (wdata : Word) (s : State) : Host.Outcome State Fault Refusal :=
  let n := sizeBytes size
  s.answerWrite (encode (.wrBlock size addr wdata))
    (s.memWrite (blockOffset addr) n (fromByteLanes (blockOffset addr) n wdata))

/-- RD_BLOCK (R101): `MemRead(addr, n)`, zero-extended on `rdata` at byte lane `i`. -/
def execRdBlock (size : BitVec 2) (addr : BitVec 8) (s : State) : Host.Outcome State Fault Refusal :=
  s.answerRead (encode (.rdBlock size addr)) (s.memRead (blockOffset addr) (sizeBytes size))

end Sys2Proof.Machine
end

