-- ==== Sys2Proof/Machine/Command.lean ====
section
/-! DEFINITION. The commands PERMUTE_ONLY, PERMUTE_AND_ADD and BATCH_PERMUTE (R94, R95, R112): each is a CMD write of
its command word (R61), from its acceptance on carried out by the sequencer's steps (R90, R93). -/

namespace Sys2Proof.Machine

/-- PERMUTE_ONLY (R94). -/
def execPermuteOnly (rounds : BitVec 8) (s : State) : Host.Outcome State Fault Refusal :=
  s.answerWrite (encode (.permuteOnly rounds)) (s.cmdWrite fun t => t.startCommand .permuteOnly rounds)

/-- PERMUTE_AND_ADD (R95). -/
def execPermuteAndAdd (rounds : BitVec 8) (s : State) : Host.Outcome State Fault Refusal :=
  s.answerWrite (encode (.permuteAndAdd rounds)) (s.cmdWrite fun t => t.startCommand .permuteAndAdd rounds)

/-- BATCH_PERMUTE (R112). -/
def execBatchPermute (rounds : BitVec 8) (s : State) : Host.Outcome State Fault Refusal :=
  s.answerWrite (encode (.batchPermute rounds)) (s.cmdWrite fun t => t.startCommand .batchPermute rounds)

end Sys2Proof.Machine
end

