-- ==== Sys2Proof/Machine/SystemAccess.lean ====
section
/-! DEFINITION. The system accesses WR_CMD and RD_STATUS (R103, R105). -/

namespace Sys2Proof.Machine

/-- WR_CMD (R103): `MemWrite(0x100, 4, v)`. -/
def execWrCmd (word : Word) (s : State) : Host.Outcome State Fault Refusal :=
  s.answerWrite (encode (.wrCmd word)) (s.memWrite 0x100#9 4 word)

/-- RD_STATUS (R105): `MemRead(0x104, 4)`; never held, never refused, changes nothing. -/
def execRdStatus (s : State) : Host.Outcome State Fault Refusal :=
  s.answerRead (encode .rdStatus) (s.memRead 0x104#9 4)

end Sys2Proof.Machine
end

