-- ==== Sys2Proof/Machine/Dispatch.lean ====
section
/-! DEFINITION. The meaning of an instruction: `exec i s` is what one step does when `i` is the access on the port. -/

namespace Sys2Proof.Machine

def exec (i : Instr) (s : State) : Host.Outcome State Fault Refusal :=
  match i with
  | .wrCmd word => Sys2Proof.Machine.execWrCmd word s
  | .rdStatus => Sys2Proof.Machine.execRdStatus s
  | .wrBlock size addr wdata => Sys2Proof.Machine.execWrBlock size addr wdata s
  | .rdBlock size addr => Sys2Proof.Machine.execRdBlock size addr s
  | .permuteOnly rounds => Sys2Proof.Machine.execPermuteOnly rounds s
  | .permuteAndAdd rounds => Sys2Proof.Machine.execPermuteAndAdd rounds s
  | .batchPermute rounds => Sys2Proof.Machine.execBatchPermute rounds s

end Sys2Proof.Machine
end

