-- ==== Sys2Proof/Machine/Turn.lean ====
section
/-! DEFINITION. Whose move it is: the three agents of R10, read from the port and the host's events. -/

namespace Sys2Proof.Machine

/-- One agent's move, with the state it moves from. -/
inductive Turn where
  /-- Reset acts (R141). -/
  | reset (s : State)
  /-- The sequencer moves, or nothing does (R90, R93, R128). -/
  | sequencer (s : State)
  /-- The access stands on the port and is served (R38). -/
  | serve (a : Access) (s : State)
  deriving DecidableEq, Repr

/-- The STATUS read of WAIT_DONE: `RD32 0x104` (R63). -/
def statusRead : Access := encode .rdStatus

/-- The state after a step with no new event: a `wait` at the head of the host's events has passed. -/
def State.passWait (s : State) : State :=
  match s.host with
  | .wait :: rest => { s with host := rest }
  | _ => s

/-- The events left after one STATUS read of WAIT_DONE (R63): while BUSY is 1 the sequencer moves once and STATUS is
read again. -/
def State.afterPoll (s : State) (rest : List HostEvent) : List HostEvent :=
  if s.busy then .wait :: .waitDone :: rest else rest

/-- Whose move it is. A reset acts at once (R141). An access on the port waits while RUN, the sequencer moving, and is
served in the state completion leaves (R39). Otherwise the host's next event stands; with none left, the sequencer
moves. -/
def State.turn (s : State) : Turn :=
  match s.host, s.port with
  | .reset :: rest, _ => .reset { s with host := rest }
  | _, some a => if s.seq = .run then .sequencer s.passWait else .serve a { s with port := none }
  | .access a :: rest, none => .serve a { s with host := rest }
  | .waitDone :: rest, none => .serve statusRead { s with host := s.afterPoll rest }
  | .wait :: rest, none => .sequencer { s with host := rest }
  | [], none => .sequencer s

/-- The state in which the host presents `a` next: nothing on the port, `a` the host's next event. -/
def State.presenting (s : State) (a : Access) : State := { s with port := none, host := .access a :: s.host }

end Sys2Proof.Machine
end

