-- ==== Sys2Proof/Machine/Step.lean ====
section
/-! DEFINITION. One step of the machine: the move of the agent whose turn it is. -/

namespace Sys2Proof.Machine

/-- Serve an access: run its instruction, or refuse a descriptor of no row (R52, R121). -/
def serve (a : Access) (s : State) : Host.Outcome State Fault Refusal :=
  match decodeAccess a with
  | .ok i => exec i s
  | .error _ => .next s.refuse

/-- One step. -/
def step (s : State) : Host.Outcome State Fault Refusal :=
  match s.turn with
  | .reset t => .next t.resetStep
  | .sequencer t => .next t.sequencerTurn
  | .serve a t => serve a t

/-- `s` with the instruction of a table word as the host's next access: nothing on the port, so that the very next step
serves it. A word too wide for its format leaves `s` as it is. -/
def State.withFetchWord (s : State) (nbits w : Nat) : State :=
  match accessOfTableWord nbits w with
  | .ok a => s.presenting a
  | .error _ => s

end Sys2Proof.Machine
end

