-- ==== Sys2Proof/Machine/HostProgram.lean ====
section
/-! DEFINITION. The host's notation (R59 to R64): base instructions, command mnemonics, pseudo-instructions and the
document's five operations as lists of host events. -/

namespace Sys2Proof.Machine

/-- `MemWrite(off, n, v)` on the pins (R19, R60), `size` the code of `n`. -/
def wrEvent (size : BitVec 2) (off : BitVec 9) (v : Word) : HostEvent :=
  .access { we := true, size := size, addr := off, wdata := toByteLanes off v }

/-- `MemRead(off, n)` on the pins (R19, R60). -/
def rdEvent (size : BitVec 2) (off : BitVec 9) : HostEvent :=
  .access { we := false, size := size, addr := off, wdata := 0#32 }

/-- `WR8 off, v` (R60). -/
def wr8 (off : BitVec 9) (v : Byte) : HostEvent := wrEvent 0#2 off (v.setWidth 32)

/-- `WR16 off, v` (R60). -/
def wr16 (off : BitVec 9) (v : BitVec 16) : HostEvent := wrEvent 1#2 off (v.setWidth 32)

/-- `WR32 off, v` (R60). -/
def wr32 (off : BitVec 9) (v : Word) : HostEvent := wrEvent 2#2 off v

/-- `RD8 off` (R60). -/
def rd8 (off : BitVec 9) : HostEvent := rdEvent 0#2 off

/-- `RD16 off` (R60). -/
def rd16 (off : BitVec 9) : HostEvent := rdEvent 1#2 off

/-- `RD32 off` (R60). -/
def rd32 (off : BitVec 9) : HostEvent := rdEvent 2#2 off

/-- `PERMUTE_ONLY r`, `PERMUTE_AND_ADD r`, `BATCH_PERMUTE r` (R61): `WR32 0x100, word`. -/
def commandEvent (op : Op) (rounds : BitVec 8) : HostEvent := wr32 0x100#9 (op.commandWord rounds)

/-- The offset `64*k + m` of byte `m` of window `k` (R31, R32). -/
def windowOffset (k : Fin 4) (m : Fin 64) : BitVec 9 := BitVec.ofNat 9 (64 * k.val + m.val)

/-- The offset `64*k + 4*j` of word `j` of window `k`. -/
def wordOffset (k : Fin 4) (j : Fin 16) : BitVec 9 := BitVec.ofNat 9 (64 * k.val + 4 * j.val)

/-- `LOAD_WORDS k, w0, ..., w15` (R62). -/
def loadWords (k : Fin 4) (w : Block) : List HostEvent :=
  (List.finRange 16).map fun j => wr32 (wordOffset k j) (w.word j)

/-- `READ_WORDS k` (R62). -/
def readWords (k : Fin 4) : List HostEvent := (List.finRange 16).map fun j => rd32 (wordOffset k j)

/-- `DECODE_BLOCK k, b0, ..., b63` (R62): LOAD_WORDS of the little-endian words. -/
def decodeBlockEvents (k : Fin 4) (b : Fin 64 → Byte) : List HostEvent := loadWords k (decodeBlock b)

/-- The same 64 bytes by byte writes: `WR8 64*k + m, bm` (R62). -/
def decodeBlockBytewise (k : Fin 4) (b : Fin 64 → Byte) : List HostEvent :=
  (List.finRange 64).map fun m => wr8 (windowOffset k m) (b m)

/-- `ENCODE_BLOCK k` (R62). -/
def encodeBlockEvents (k : Fin 4) : List HostEvent := readWords k

/-- `CHACHA20_BLOCK` (R62): `PERMUTE_AND_ADD 20`. -/
def chacha20Block : HostEvent := commandEvent .permuteAndAdd 20#8

/-- The document's `permute_only(rounds, block)` (R64). -/
def permuteOnlyProgram (rounds : BitVec 8) (block : Block) : List HostEvent :=
  loadWords 0 block ++ [commandEvent .permuteOnly rounds] ++ readWords 0

/-- The document's `permute_and_add(rounds, block)` (R64). -/
def permuteAndAddProgram (rounds : BitVec 8) (block : Block) : List HostEvent :=
  loadWords 0 block ++ [commandEvent .permuteAndAdd rounds] ++ readWords 0

/-- The document's `decode_block(bytes)` (R64). -/
def decodeBlockProgram (b : Fin 64 → Byte) : List HostEvent := decodeBlockEvents 0 b

/-- The document's `encode_block(state)` (R64). -/
def encodeBlockProgram : List HostEvent := encodeBlockEvents 0

/-- The document's `batch_permute(base_state, rounds, 4)` (R64). -/
def batchPermuteProgram (rounds : BitVec 8) (base : Block) : List HostEvent :=
  loadWords 0 base ++ [commandEvent .batchPermute rounds] ++ readWords 0 ++ readWords 1 ++ readWords 2 ++ readWords 3

end Sys2Proof.Machine
end

