-- ==== Sys2Proof/Safety.lean ====
section
/-! DEFINITION. The terms the claims use: several steps, the access cases the spec lists, and the invariants of a
machine state. -/

namespace Sys2Proof.Machine

/-- The next state of an outcome, if it is one. -/
def nextState : Host.Outcome State Fault Refusal → Option State
  | .next t => some t
  | .fault _ => none
  | .refused _ => none

/-- The state after `n` steps, if each step answers a next state. -/
def stepN : Nat → State → Option State
  | 0, s => some s
  | n + 1, s =>
    match nextState (step s) with
    | some t => stepN n t
    | none => none

/-- The CMD register's four offsets (R31). -/
abbrev atCmd (addr : BitVec 9) : Prop := 0x100 ≤ addr.toNat ∧ addr.toNat ≤ 0x103

/-- The STATUS register's four offsets (R31). -/
abbrev atStatus (addr : BitVec 9) : Prop := 0x104 ≤ addr.toNat ∧ addr.toNat ≤ 0x107

/-- The cases in which an access is refused, as R121 lists them: `size = 3`; misaligned; `addr >= 0x108`; a read of CMD;
a write of STATUS; a 1- or 2-byte access to CMD or STATUS; a well-formed CMD write in FAULT. -/
abbrev refusedCase (a : Access) (seq : Seq) : Prop :=
  a.size = 3#2 ∨ a.addr.toNat % sizeBytes a.size ≠ 0 ∨ 0x108 ≤ a.addr.toNat ∨ (a.we = false ∧ atCmd a.addr) ∨
    (a.we = true ∧ atStatus a.addr) ∨ (a.size ≠ 2#2 ∧ (atCmd a.addr ∨ atStatus a.addr)) ∨
    (a.we = true ∧ a.addr = 0x100#9 ∧ a.size = 2#2 ∧ seq = .fault)

/-- The accesses that can be held (R39): a block-window access or a CMD write that passes checks 1 to 5 of R38. -/
def holdable (a : Access) : Bool :=
  match decodeAccess a with
  | .ok (.wrBlock size addr _) => blockAccessOk size addr
  | .ok (.rdBlock size addr) => blockAccessOk size addr
  | .ok .rdStatus => false
  | .ok (.wrCmd _) => true
  | .ok (.permuteOnly _) => true
  | .ok (.permuteAndAdd _) => true
  | .ok (.batchPermute _) => true
  | .error _ => false

/-- ERRCODE against SEQ (R17, R120): a fault's code in FAULT, 0 otherwise. -/
abbrev State.errcodeOk (s : State) : Prop :=
  (s.seq = .fault → s.errcode = errOddRounds ∨ s.errcode = errIllegalCmd) ∧ (s.seq ≠ .fault → s.errcode = 0#4)

/-- The running command's latches (R15, R17): DONE is 0, PH is the parity of the rounds still to run, and not both
OPADD and OPBATCH are set. -/
abbrev State.latchesOk (s : State) : Prop :=
  ¬ (s.opadd = true ∧ s.opbatch = true) ∧ (s.seq = .run → s.done = false ∧ s.ph = s.rc.getLsbD 0)

/-- An access on the port is one that can be held, and SEQ is not FAULT (R39). -/
abbrev State.portOk (s : State) : Prop :=
  match s.port with
  | none => True
  | some a => s.seq ≠ .fault ∧ holdable a = true

/-- The invariant of control state. -/
abbrev State.Inv (s : State) : Prop := s.errcodeOk ∧ s.latchesOk ∧ s.portOk

/-- `n` rounds of the command in progress have been run on what P holds (R22, R90, R112): `n` plus RC is even, PH is the
parity of `n`, and each lane of the command holds `n` row rounds of its input. -/
def State.ranRounds (s : State) (n : Nat) : Prop :=
  (n + s.rc.toNat) % 2 = 0 ∧ n + s.rc.toNat ≤ 254 ∧ s.ph = decide (n % 2 = 1) ∧
    (s.opbatch = false → s.x.q0 = rowRounds n false s.p) ∧
    (s.opbatch = true → ∀ k, s.x.get k = rowRounds n false ((promote s.p).get k))

/-- The invariant of the data path: in RUN, some number of rounds of the command has been run. -/
def State.CommandProgress (s : State) : Prop := s.seq = .run → ∃ n, s.ranRounds n

/-- Everything of a state but the data: X, P and the data of a read blanked (R152). -/
def State.control (s : State) : State :=
  { s with
    x := State.reset.x
    p := State.reset.p
    reply :=
      match s.reply with
      | .read _ => .read 0#32
      | .noAck => .noAck
      | .refused => .refused
      | .written => .written }

/-- A reset is the host's next event. -/
abbrev State.resetNext (s : State) : Prop := s.host.head? = some .reset

/-- The access the next step serves: one left on the port once SEQ is not RUN (R39), or else the one the host presents
next, for WAIT_DONE a STATUS read (R63). Which access a step serves is the model's choice (log entries 1, 8, 9). -/
abbrev State.serves (s : State) (a : Access) : Prop :=
  (s.port = some a ∧ s.seq ≠ .run ∧ ¬ s.resetNext) ∨
    (s.port = none ∧ (s.host.head? = some (.access a) ∨ (s.host.head? = some .waitDone ∧ a = statusRead)))

end Sys2Proof.Machine
end

