-- ==== Sys2Proof/Certificates/Slice0/Obligations.lean ====
section
/-! DEFINITION. The statements for the provers, family by family, each from the numbered rules of the spec. -/

open Sys2Proof Sys2Proof.Machine

/-! ### Lane operations and the quarter round (R65 to R79) -/

/-- ADD32 (R65): addition modulo 2^32, with the rule's laws and corner cases. -/
def Obligations.AddWrapsModulo : Prop :=
  (∀ a b : Word, (add32 a b).toNat = (a.toNat + b.toNat) % 2 ^ 32) ∧
  (∀ a b : Word, add32 a b = add32 b a) ∧
  (∀ a b c : Word, add32 (add32 a b) c = add32 a (add32 b c)) ∧
  (∀ a : Word, add32 a 0#32 = a) ∧
  (∀ a : Word, (add32 a a).toNat = 2 * a.toNat % 2 ^ 32) ∧
  add32 0xFFFFFFFF#32 1#32 = 0#32 ∧ add32 0x80000000#32 0x80000000#32 = 0#32 ∧
  add32 0x11111111#32 0x01020304#32 = 0x12131415#32

/-- XOR32 (R66): bit by bit, with the rule's laws. -/
def Obligations.XorIsBitwise : Prop :=
  (∀ (a b : Word) (n : Nat), n < 32 → (xor32 a b).getLsbD n = (a.getLsbD n ^^ b.getLsbD n)) ∧
  (∀ a : Word, xor32 a a = 0#32) ∧ (∀ a : Word, xor32 a 0#32 = a) ∧ (∀ a : Word, xor32 a 0xFFFFFFFF#32 = ~~~a) ∧
  (∀ a b : Word, xor32 a b = xor32 b a) ∧ (∀ a b c : Word, xor32 (xor32 a b) c = xor32 a (xor32 b c)) ∧
  (∀ a b : Word, xor32 (xor32 a b) b = a) ∧ xor32 0x01234567#32 0x12131415#32 = 0x13305172#32

/-- ROTL32 (R67): the shift form for amounts 1 to 31, the identity at 0, the per-bit form, and the rule's laws. -/
def Obligations.RotateLeftRule : Prop :=
  (∀ (x : Word) (n : BitVec 5), n ≠ 0#5 →
    (rotl32 x n).toNat = (x.toNat * 2 ^ n.toNat) % 2 ^ 32 + x.toNat / 2 ^ (32 - n.toNat)) ∧
  (∀ x : Word, rotl32 x 0#5 = x) ∧
  (∀ (x : Word) (n : BitVec 5) (m : Nat), m < 32 → (rotl32 x n).getLsbD ((m + n.toNat) % 32) = x.getLsbD m) ∧
  (∀ n : BitVec 5, rotl32 0#32 n = 0#32 ∧ rotl32 0xFFFFFFFF#32 n = 0xFFFFFFFF#32) ∧
  (∀ (x : Word) (n : BitVec 5), n ≠ 0#5 → rotl32 (rotl32 x n) (BitVec.ofNat 5 (32 - n.toNat)) = x) ∧
  (∀ (x : Word) (m n : BitVec 5), rotl32 (rotl32 x m) n = rotl32 x (BitVec.ofNat 5 ((m.toNat + n.toNat) % 32))) ∧
  (∀ x : Word, rotl32 x 16#5 = x.extractLsb' 0 16 ++ x.extractLsb' 16 16) ∧
  (∀ x : Word, rotl32 x 8#5 = x.extractLsb' 0 24 ++ x.extractLsb' 24 8) ∧
  rotl32 0x13305172#32 16#5 = 0x51721330#32 ∧ rotl32 0xedfd8177#32 12#5 = 0xd8177edf#32 ∧
  rotl32 0xbb5881c4#32 8#5 = 0x5881c4bb#32 ∧ rotl32 0x9d9639f1#32 7#5 = 0xcb1cf8ce#32 ∧
  rotl32 0x80000000#32 1#5 = 0x00000001#32

/-- The four-lane forms act on each lane alone, with one rotation amount for all four (R68), and so QRx4 is QR in each
batch lane (R77). -/
def Obligations.QuadLaneFormsActPerLane : Prop :=
  ∀ (a b c d : Quad Word) (n : BitVec 5) (k : Fin 4),
    (add32x4 a b).get k = add32 (a.get k) (b.get k) ∧
    (xor32x4 a b).get k = xor32 (a.get k) (b.get k) ∧
    (rotl32x4 a n).get k = rotl32 (a.get k) n ∧
    (qrx4 a b c d).map (fun q => q.get k) = qr (a.get k) (b.get k) (c.get k) (d.get k)

/-- Each lane operation is a bijection in its first operand, with the inverses of R70. -/
def Obligations.LaneOpsAreBijections : Prop :=
  ∀ (b : Word) (n : BitVec 5),
    Function.Bijective (fun a => add32 a b) ∧ Function.Bijective (fun a => xor32 a b) ∧
    Function.Bijective (fun a => rotl32 a n) ∧
    (∀ a : Word, sub32 (add32 a b) b = a) ∧ (∀ a : Word, xor32 (xor32 a b) b = a) ∧
    (∀ a : Word, rotl32 (rotl32 a n) (BitVec.ofNat 5 ((32 - n.toNat) % 32)) = a) ∧
    (∀ s : Word, (sub32 s b).toNat = (s.toNat + 2 ^ 32 - b.toNat) % 2 ^ 32)

/-- QR is the document's four in-place lines, with Lean's own rotation (R75), and the all-zero input is a fixed
point. -/
def Obligations.QrIsTheDocumentsLines : Prop :=
  (∀ a b c d : Word,
    qr a b c d =
      (let a := a + b; let d := (d ^^^ a).rotateLeft 16
       let c := c + d; let b := (b ^^^ c).rotateLeft 12
       let a := a + b; let d := (d ^^^ a).rotateLeft 8
       let c := c + d; let b := (b ^^^ c).rotateLeft 7
       ⟨a, b, c, d⟩)) ∧
  qr 0#32 0#32 0#32 0#32 = ⟨0#32, 0#32, 0#32, 0#32⟩

/-- QRINV undoes QR and QR undoes QRINV: QR is a bijection on 128 bits (R79). -/
def Obligations.QrInverseUndoesQr : Prop :=
  ∀ a b c d : Word,
    (let r := qr a b c d; qrinv r.q0 r.q1 r.q2 r.q3) = ⟨a, b, c, d⟩ ∧
    (let r := qrinv a b c d; qr r.q0 r.q1 r.q2 r.q3) = ⟨a, b, c, d⟩

/-! ### Rounds, the permutation, the batch (R80 to R89, R110 to R113) -/

/-- The words COLROUND and DIAGROUND leave, by index (R80, R81). -/
def Obligations.ColumnAndDiagonalWords : Prop :=
  ∀ (x : Block) (i : Fin 4),
    (let r := qr (x.word ⟨i.val, by omega⟩) (x.word ⟨4 + i.val, by omega⟩) (x.word ⟨8 + i.val, by omega⟩)
        (x.word ⟨12 + i.val, by omega⟩)
     (colround x).word ⟨i.val, by omega⟩ = r.q0 ∧ (colround x).word ⟨4 + i.val, by omega⟩ = r.q1 ∧
       (colround x).word ⟨8 + i.val, by omega⟩ = r.q2 ∧ (colround x).word ⟨12 + i.val, by omega⟩ = r.q3) ∧
    (let r := qr (x.word ⟨i.val, by omega⟩) (x.word ⟨4 + (i.val + 1) % 4, by omega⟩)
        (x.word ⟨8 + (i.val + 2) % 4, by omega⟩) (x.word ⟨12 + (i.val + 3) % 4, by omega⟩)
     (diaground x).word ⟨i.val, by omega⟩ = r.q0 ∧ (diaground x).word ⟨4 + (i.val + 1) % 4, by omega⟩ = r.q1 ∧
       (diaground x).word ⟨8 + (i.val + 2) % 4, by omega⟩ = r.q2 ∧
       (diaground x).word ⟨12 + (i.val + 3) % 4, by omega⟩ = r.q3)

/-- PERMUTE (R83): the identity at 0, one more double round every two rounds, composition, the zero block fixed. -/
def Obligations.PermuteComposes : Prop :=
  (∀ x : Block, permute x 0 = x) ∧
  (∀ (x : Block) (r : Nat), r % 2 = 0 → permute x (r + 2) = diaground (colround (permute x r))) ∧
  (∀ (x : Block) (r s : Nat), r % 2 = 0 → s % 2 = 0 → permute x (r + s) = permute (permute x r) s) ∧
  (∀ r : Nat, r % 2 = 0 → permute (blockOf 0#32) r = blockOf 0#32)

/-- For each even round count the permutation is a bijection, and the inverse of R84 undoes it on both sides. -/
def Obligations.PermuteIsBijective : Prop :=
  ∀ r : Nat, r % 2 = 0 →
    Function.Bijective (fun x => permute x r) ∧
    (∀ x : Block, permuteInv (permute x r) r = x) ∧ (∀ x : Block, permute (permuteInv x r) r = x)

/-- One quarter round unit used four times in place, in any order, gives the phase (R78, R85). -/
def Obligations.PhaseInAnyOrder : Prop :=
  ∀ (order : List (Fin 4)) (x : Block), order.Perm [0, 1, 2, 3] →
    colroundInOrder order x = colround x ∧ diagroundInOrder order x = diaground x

/-- LANEROT (R86): lane `i` gets lane `(i + n) % 4`, and rotating on by `4 - n` restores the row. -/
def Obligations.LaneRotationRule : Prop :=
  ∀ (r : Quad Word) (n : Fin 4),
    (∀ i : Fin 4, (lanerot r n).get i = r.get ⟨(i.val + n.val) % 4, by omega⟩) ∧
    lanerot (lanerot r n) ⟨(4 - n.val) % 4, by omega⟩ = r

/-- ROWQR (R87): QR in each row lane, the same as the row operations on whole rows, and COLROUND on row-major rows. -/
def Obligations.RowQuarterRoundIsColumnPhase : Prop :=
  ∀ x : Block,
    (∀ i : Fin 4, (rowqr x).map (fun r => r.get i) = qr (x.q0.get i) (x.q1.get i) (x.q2.get i) (x.q3.get i)) ∧
    rowqr x = qrx4 x.q0 x.q1 x.q2 x.q3 ∧ rowqr x = colround x

/-- The row-vectorized path computes the reference function (R89): parts (a), (b), (c), and `rounds` alternating row
rounds are PERMUTE for every even count. -/
def Obligations.RowPathEqualsReference : Prop :=
  (∀ x : Block, rowround x false = diagonalOrder (colround x)) ∧
  (∀ y : Block, rowround (diagonalOrder y) true = diaground y) ∧
  (∀ x : Block, rowround (rowround x false) true = doubleround x) ∧
  (∀ (x : Block) (r : Nat), r % 2 = 0 → rowRounds r false x = permute x r)

/-- PROMOTE (R110): every word copied to every lane, `k` added to word 12 of lane `k`. -/
def Obligations.PromoteAddsLaneToCounter : Prop :=
  ∀ (base : Block) (k : Fin 4),
    (∀ j : Fin 16, j ≠ 12 → ((promote base).get k).word j = base.word j) ∧
    ((promote base).get k).word 12 = add32 (base.word 12) (BitVec.ofNat 32 k.val) ∧
    (promote base).get 0 = base

/-- The batch (R111, R113): lane `k` is the scalar permutation of the base with `k` added to its counter word, lane 0
the scalar result, and the algorithm over QuadLane values with QRx4 computes all four. -/
def Obligations.BatchLanesAreScalarPermutations : Prop :=
  ∀ (base : Block) (r : Nat), r % 2 = 0 →
    (∀ k : Fin 4, (batch base r).get k =
      permute (base.setWord 12 (add32 (base.word 12) (BitVec.ofNat 32 k.val))) r) ∧
    (batch base r).get 0 = permute base r ∧
    quadLanes (batch base r) = doubleRoundsWith qrx4 (r / 2) (quadLanes (promote base))

/-! ### Bytes (R32, R102) -/

/-- `decode` and `encode` of a block (R102): little-endian words, and each undoes the other. -/
def Obligations.BlockBytesRoundTrip : Prop :=
  (∀ (b : Fin 64 → Byte) (j : Fin 16),
    ((decodeBlock b).word j).toNat =
      (b ⟨4 * j.val, by omega⟩).toNat + 2 ^ 8 * (b ⟨4 * j.val + 1, by omega⟩).toNat +
        2 ^ 16 * (b ⟨4 * j.val + 2, by omega⟩).toNat + 2 ^ 24 * (b ⟨4 * j.val + 3, by omega⟩).toNat) ∧
  (∀ (w : Block) (j : Fin 16) (i : Fin 4),
    encodeBlock w ⟨4 * j.val + i.val, by omega⟩ = (w.word j).extractLsb' (8 * i.val) 8) ∧
  (∀ (b : Fin 64 → Byte) (m : Fin 64), encodeBlock (decodeBlock b) m = b m) ∧
  (∀ w : Block, decodeBlock (encodeBlock w) = w)

/-- The window byte at `0x040*k + 4*j + i` is bits `8i+7 : 8i` of `X[k][j]`: window `k` shows lane `k` encoded
(R32). -/
def Obligations.WindowsShowLanesLittleEndian : Prop :=
  ∀ (s : State) (k : Fin 4),
    (∀ (j : Fin 16) (i : Fin 4),
      s.windowByte (BitVec.ofNat 8 (0x40 * k.val + 4 * j.val + i.val)) = (s.word k j).extractLsb' (8 * i.val) 8) ∧
    (∀ m : Fin 64, s.windowByte (BitVec.ofNat 8 (0x40 * k.val + m.val)) = encodeBlock (s.x.get k) m)

/-! ### Encodings (R50 to R58) -/

/-- A few words written out from the encoding tables decode to what they stand for (R52, R54, R61). -/
def Obligations.SampleWordsDecode : Prop :=
  decodeBus 0xD00#12 0x00000114#32 = .ok (.wrCmd 0x00000114#32) ∧
  decodeBus 0x504#12 0#32 = .ok .rdStatus ∧
  decodeBus 0xC30#12 1#32 = .ok (.wrBlock 2#2 0x30#8 1#32) ∧
  decodeBus 0x003#12 0#32 = .ok (.rdBlock 0#2 0x03#8) ∧
  decodeBus 0x508#12 0#32 = .error .noBusRow ∧
  decodeCmd 0x00000114#32 = .ok (.permuteOnly 20#8) ∧
  decodeCmd 0x00000214#32 = .ok (.permuteAndAdd 20#8) ∧
  decodeCmd 0x00000314#32 = .ok (.batchPermute 20#8) ∧
  decodeCmd 0x00000014#32 = .error .reservedOp ∧ decodeCmd 0x00001114#32 = .error .reservedBits

/-- Decoding what the encoder gives returns the instruction, with every operand at every value: the bus accesses
through format BUS, the commands through format CMD, and all through both decoders, where a CMD write of a command's
word is read as that command. -/
def Obligations.DecodeEncodeAllInstructions : Prop :=
  (∀ v : Word, decodeBus (encode (.wrCmd v)).descriptor (encode (.wrCmd v)).wdata = .ok (.wrCmd v)) ∧
  (∀ w : Word, decodeBus (encode .rdStatus).descriptor w = .ok .rdStatus) ∧
  (∀ (size : BitVec 2) (addr : BitVec 8) (wdata : Word),
    decodeBus (encode (.wrBlock size addr wdata)).descriptor (encode (.wrBlock size addr wdata)).wdata =
      .ok (.wrBlock size addr wdata)) ∧
  (∀ (size : BitVec 2) (addr : BitVec 8) (w : Word),
    decodeBus (encode (.rdBlock size addr)).descriptor w = .ok (.rdBlock size addr)) ∧
  (∀ (op : Op) (r : BitVec 8), decodeCmd (op.commandWord r) = .ok (op.instr r)) ∧
  (∀ i : Instr, (∀ v j, i = .wrCmd v → decodeCmd v ≠ .ok j) → decodeAccess (encode i) = .ok i) ∧
  (∀ (v : Word) (j : Instr), decodeCmd v = .ok j → decodeAccess (encode (.wrCmd v)) = .ok j)

/-- Encoding what the decoder read gives the access back: the descriptor, and the write data of a write. -/
def Obligations.EncodeDecodeAccess : Prop :=
  ∀ (a : Access) (i : Instr), decodeAccess a = .ok i →
    (encode i).descriptor = a.descriptor ∧ (a.we = true → (encode i).wdata = a.wdata)

/-- The words of the three commands are those with RSV 0 and OP 1, 2 or 3 (R54, R56), each with its own operation and
round count. -/
def Obligations.CommandWordsPartition : Prop :=
  (∀ v : Word, (∃ op r, v = Op.commandWord op r) ↔
    v.toNat / 2 ^ 12 = 0 ∧ (v.toNat / 2 ^ 8 % 16 = 1 ∨ v.toNat / 2 ^ 8 % 16 = 2 ∨ v.toNat / 2 ^ 8 % 16 = 3)) ∧
  (∀ v : Word, (∃ i, decodeCmd v = .ok i) ↔ ∃ op r, v = Op.commandWord op r) ∧
  (∀ (op op' : Op) (r r' : BitVec 8), op.commandWord r = op'.commandWord r' → op = op' ∧ r = r') ∧
  (∀ (op : Op) (r : BitVec 8), (op.commandWord r).getLsbD 0 = r.getLsbD 0)

/-- The decode tables and the ordered checks of `MemRead` and `MemWrite` do the same to every access in every state
(R33, R34, R52). -/
def Obligations.DecodeTableAgreesWithChecks : Prop :=
  ∀ (a : Access) (s : State),
    (a.we = true → serve a s =
      s.answerWrite a (s.memWrite a.addr (sizeBytes a.size) (fromByteLanes a.addr (sizeBytes a.size) a.wdata))) ∧
    (a.we = false → serve a s =
      s.answerRead { a with wdata := 0#32 } (s.memRead a.addr (sizeBytes a.size)))

/-! ### The step, reset, the hold, refusals (R16, R37 to R42, R121, R140, R141) -/

/-- A step runs the decoded instruction: the host's next access, or a held one once SEQ is not RUN, with the port
cleared and the access taken off the host's events. That the next access comes from the list `host` and that a CMD write
is decoded down to its command are the model's choices (log entries 1, 7, 8). -/
def Obligations.StepRunsDecodedInstruction : Prop :=
  (∀ (s : State) (a : Access) (i : Instr) (rest : List HostEvent), decodeAccess a = .ok i → s.port = none →
    s.host = .access a :: rest → step s = exec i { s with host := rest }) ∧
  (∀ (s : State) (a : Access) (i : Instr), decodeAccess a = .ok i → s.port = some a → s.seq ≠ .run → ¬ s.resetNext →
    step s = exec i { s with port := none })

/-- The instruction of a table word placed as the next access is run by the very next step; how a table word is laid on
the pins is the model's choice (log entries 2, 12). -/
def Obligations.TableWordRunsNext : Prop :=
  ∀ (s : State) (nbits w : Nat) (i : Instr), decodeTableWord nbits w = some i →
    step (s.withFetchWord nbits w) = exec i { s with port := none }

/-- No step stops: every state has a next state. This is the model's choice, no rule's words: it takes a refused access
and an engine fault as next states (log entries 3, 6), and a turn in which no agent has a move as a step that changes
nothing of the engine (log entry 1). -/
def Obligations.StepNeverStops : Prop := ∀ s : State, ∃ t, step s = .next t

/-- Reset leaves the table of R140, from any state: every piece of the engine's state at its reset value, so STATUS and
every window byte read 0 and the three level outputs are 0; `State.reset` has the same value in each
of them. The fields that are no row of the table (port, reply, host, refusals; log entry 13) are not compared. -/
def Obligations.ResetLeavesResetTable : Prop :=
  ∀ (s : State) (rest : List HostEvent), s.host = .reset :: rest →
    ∃ t, step s = .next t ∧
      (∀ (k : Fin 4) (j : Fin 16), t.word k j = 0#32) ∧ (∀ j : Fin 16, t.p.word j = 0#32) ∧
      t.rc = 0#8 ∧ t.ph = false ∧ t.opadd = false ∧ t.opbatch = false ∧ t.seq = .idle ∧ t.done = false ∧
      t.errcode = 0#4 ∧ t.status = 0#32 ∧ t.busyPin = false ∧ t.donePin = false ∧ t.errorPin = false ∧
      (∀ b : BitVec 8, t.windowByte b = 0#8) ∧
      State.reset = { t with
        port := State.reset.port, reply := State.reset.reply
        host := State.reset.host, refusals := State.reset.refusals }

/-- While RUN, a well-formed block access and every CMD write are held: no `ack`, the access stays on the port, and
nothing else changes (R39). -/
def Obligations.AccessesHeldWhileRunning : Prop :=
  ∀ s : State, s.seq = .run →
    (∀ (size : BitVec 2) (addr : BitVec 8) (wdata : Word), blockAccessOk size addr = true →
      exec (.wrBlock size addr wdata) s =
        .next { s with port := some (encode (.wrBlock size addr wdata)), reply := .noAck }) ∧
    (∀ (size : BitVec 2) (addr : BitVec 8), blockAccessOk size addr = true →
      exec (.rdBlock size addr) s = .next { s with port := some (encode (.rdBlock size addr)), reply := .noAck }) ∧
    (∀ v : Word, exec (.wrCmd v) s = .next { s with port := some (encode (.wrCmd v)), reply := .noAck }) ∧
    (∀ (op : Op) (r : BitVec 8),
      exec (op.instr r) s = .next { s with port := some (encode (op.instr r)), reply := .noAck })

/-- A held access waits while SEQ is RUN, each step being the sequencer's move with no `ack`, and is served in the state
completion leaves; a reset drops it unperformed and marks the run (R39, R141, U15). That the sequencer moves in each
step of a hold, a `wait` of the host passing with it, and that the access is served before any later event of the host
are the model's choices (log entries 1, 8); the mark is that of log entry 3, and reset keeps the host's later events
(log entry 13). -/
def Obligations.HeldAccessServedAfterCompletion : Prop :=
  ∀ (s : State) (a : Access), s.port = some a →
    (¬ s.resetNext → s.seq = .run →
      step s = .next { s.passWait.sequencer with port := some a, reply := .noAck }) ∧
    (¬ s.resetNext → s.seq ≠ .run → step s = serve a { s with port := none }) ∧
    (s.resetNext → step s = .next { State.reset with host := s.host.tail, refusals := s.refusals + 1 })

/-- An access is refused in the cases R121 lists and no others; a refused one is acknowledged with `resp_err = 1`,
`rdata = 0`, changes nothing of the engine and marks the run. -/
def Obligations.RefusedExactlyInTheListedCases : Prop :=
  (∀ (a : Access) (s : State),
    (refusedCase a s.seq → serve a s = .next { s with port := none, reply := .refused, refusals := s.refusals + 1 }) ∧
    (¬ refusedCase a s.seq → ∃ t, serve a s = .next t ∧ t.reply ≠ .refused ∧ t.refusals = s.refusals)) ∧
  BusReply.refused.ack = true ∧ BusReply.refused.respErr = some true ∧ BusReply.refused.rdata = some 0#32

/-- The transitions of SEQ (R16): acceptance, completion, fault entry, reset, and no other. IDLE is left only in a step
that serves a CMD write: for RUN a command with an even round count, whose operation and count the latches take; for
FAULT a command with an odd count (code 1) or a word of no command (code 2). Which access a step serves is the model's
choice (`State.serves`, log entries 1, 8). -/
def Obligations.SequencerTransitions : Prop :=
  ∀ s t : State, step s = .next t →
    (s.resetNext ∧ t.seq = .idle) ∨
    (¬ s.resetNext ∧
      (t.seq = s.seq ∨
      (s.seq = .idle ∧ t.seq = .run ∧ t.p = s.x.q0 ∧ t.done = false ∧ t.ph = false ∧
        ∃ (op : Op) (r : BitVec 8), s.serves (encode (op.instr r)) ∧ r.toNat % 2 = 0 ∧ t.rc = r ∧
          t.opadd = decide (op = .permuteAndAdd) ∧ t.opbatch = decide (op = .batchPermute)) ∨
      (s.seq = .run ∧ t.seq = .idle ∧ s.rc = 0#8 ∧ t.done = true) ∨
      (s.seq = .idle ∧ t.seq = .fault ∧ t.x = s.x ∧
        ∃ v : Word, s.serves (cmdAccess v) ∧
          ((t.errcode = 1#4 ∧ ∃ (op : Op) (r : BitVec 8), v = op.commandWord r ∧ r.toNat % 2 = 1) ∨
            (t.errcode = 2#4 ∧ ∀ (op : Op) (r : BitVec 8), v ≠ op.commandWord r)))))

/-- FAULT is left by reset only, and nothing but the windows changes in it (R125, R40). -/
def Obligations.FaultIsSticky : Prop :=
  ∀ s t : State, s.seq = .fault → ¬ s.resetNext → step s = .next t →
    t.seq = .fault ∧ t.errcode = s.errcode ∧ t.done = s.done ∧ t.p = s.p ∧ t.rc = s.rc ∧ t.ph = s.ph ∧
      t.opadd = s.opadd ∧ t.opbatch = s.opbatch

/-- P is loaded with `X[0]` at acceptance (R13); DONE is set at completion and cleared at acceptance, ERRCODE is written
at a fault (R17); RC is loaded at acceptance and counts down with each round, PH is cleared at acceptance and inverted
by each round, OPADD and OPBATCH are written at acceptance (R14, R15); without a reset nothing else writes them. Outside
RUN the sequencer makes no step (R10, R128): without a reset, a step that serves no access leaves everything but the
reply and the host's events as it was. That there is such a step, and which access a step serves, are the model's
choices (`State.serves`, log entries 1, 8). -/
def Obligations.HiddenCopyAndStatusRegistersWritten : Prop :=
  ∀ s t : State, ¬ s.resetNext → step s = .next t →
    (t.p = s.p ∨ (s.seq = .idle ∧ t.seq = .run ∧ t.p = s.x.q0)) ∧
    (t.done = s.done ∨ (s.seq = .run ∧ s.rc = 0#8 ∧ t.seq = .idle ∧ t.done = true) ∨
      (s.seq = .idle ∧ t.seq = .run ∧ t.done = false)) ∧
    (t.errcode = s.errcode ∨ (s.seq = .idle ∧ t.seq = .fault ∧ t.done = s.done ∧
      (t.errcode = 1#4 ∨ t.errcode = 2#4))) ∧
    (t.rc = s.rc ∨ (s.seq = .run ∧ s.rc ≠ 0#8 ∧ t.rc = s.rc - 1#8) ∨ (s.seq = .idle ∧ t.seq = .run)) ∧
    (t.ph = s.ph ∨ (s.seq = .run ∧ s.rc ≠ 0#8 ∧ t.ph = !s.ph) ∨ (s.seq = .idle ∧ t.seq = .run ∧ t.ph = false)) ∧
    ((t.opadd = s.opadd ∧ t.opbatch = s.opbatch) ∨ (s.seq = .idle ∧ t.seq = .run)) ∧
    (s.seq ≠ .run → (∀ a : Access, ¬ s.serves a) → t = { s with reply := .noAck, host := s.host.tail })

/-- No step's control depends on the data: two states that differ in X, P and read data only step to two such states
(R152). -/
def Obligations.ControlIndependentOfData : Prop :=
  ∀ s s' t t' : State, s.control = s'.control → step s = .next t → step s' = .next t' → t.control = t'.control

/-! ### Block accesses (R36, R37, R100, R101) -/

/-- WR_BLOCK completes whenever SEQ is not RUN and the access is well formed: the named bytes take the write data's
byte lanes, every other byte and everything else is unchanged (R100). -/
def Obligations.WrBlockWritesNamedBytes : Prop :=
  ∀ (size : BitVec 2) (addr : BitVec 8) (wdata : Word) (s : State), blockAccessOk size addr = true → s.seq ≠ .run →
    ∃ t, exec (.wrBlock size addr wdata) s = .next t ∧
      (∀ b : BitVec 8, t.windowByte b =
        if addr.toNat ≤ b.toNat ∧ b.toNat < addr.toNat + sizeBytes size then
          wdata.extractLsb' (8 * (b.toNat % 4)) 8
        else s.windowByte b) ∧
      t = { s with x := t.x, port := none, reply := .written }

/-- The frame of WR_BLOCK on every path: no byte outside the named ones and no other engine state changes. -/
def Obligations.WrBlockFrame : Prop :=
  ∀ (size : BitVec 2) (addr : BitVec 8) (wdata : Word) (s t : State), exec (.wrBlock size addr wdata) s = .next t →
    (∀ b : BitVec 8, b.toNat < addr.toNat ∨ addr.toNat + sizeBytes size ≤ b.toNat →
      t.windowByte b = s.windowByte b) ∧
    t = { s with x := t.x, port := t.port, reply := t.reply, refusals := t.refusals } ∧
    (blockAccessOk size addr = false ∨ s.seq = .run → t.x = s.x)

/-- RD_BLOCK completes whenever SEQ is not RUN and the access is well formed: `rdata` carries the named bytes on their
byte lanes and 0 elsewhere, and no state changes (R101). -/
def Obligations.RdBlockReadsNamedBytes : Prop :=
  ∀ (size : BitVec 2) (addr : BitVec 8) (s : State), blockAccessOk size addr = true → s.seq ≠ .run →
    ∃ r : Word, exec (.rdBlock size addr) s = .next { s with port := none, reply := .read r } ∧
      (∀ m : Nat, m < 4 → r.extractLsb' (8 * m) 8 =
        if addr.toNat % 4 ≤ m ∧ m < addr.toNat % 4 + sizeBytes size then
          s.windowByte (BitVec.ofNat 8 (addr.toNat - addr.toNat % 4 + m))
        else 0#8)

/-- A block read or write the table's constraint forbids is refused in every state and changes nothing (R35, R121). -/
def Obligations.IllFormedBlockAccessRefused : Prop :=
  ∀ (size : BitVec 2) (addr : BitVec 8) (wdata : Word) (s : State),
    (size = 3#2 ∨ addr.toNat % sizeBytes size ≠ 0) →
    exec (.wrBlock size addr wdata) s = .next { s with port := none, reply := .refused, refusals := s.refusals + 1 } ∧
    exec (.rdBlock size addr) s = .next { s with port := none, reply := .refused, refusals := s.refusals + 1 }

/-- The frame of the two reads on every path: no byte and no engine state changes (R37). -/
def Obligations.ReadsChangeNoState : Prop :=
  ∀ s t : State,
    (exec .rdStatus s = .next t ∨ ∃ size addr, exec (.rdBlock size addr) s = .next t) →
    t = { s with port := t.port, reply := t.reply, refusals := t.refusals } ∧
      ∀ b : BitVec 8, t.windowByte b = s.windowByte b

/-- A read after a write of the same bytes returns the value written (R36). -/
def Obligations.ReadAfterWrite : Prop :=
  ∀ (size : BitVec 2) (addr : BitVec 8) (wdata : Word) (s : State), blockAccessOk size addr = true → s.seq ≠ .run →
    ∃ t u, exec (.wrBlock size addr wdata) s = .next t ∧ exec (.rdBlock size addr) t = .next u ∧
      u.reply = .read (toByteLanes (blockOffset addr) (fromByteLanes (blockOffset addr) (sizeBytes size) wdata)) ∧
      u.x = t.x

/-! ### STATUS and CMD (R40, R57, R103 to R105, R120 to R124) -/

/-- RD_STATUS answers the status word in every state, never held and never refused, and changes nothing (R105). -/
def Obligations.RdStatusAnswersStatus : Prop :=
  ∀ s : State, ∃ w : Word,
    exec .rdStatus s = .next { s with port := none, reply := .read w } ∧
    w.getLsbD 0 = decide (s.seq = .run) ∧ w.getLsbD 1 = s.done ∧ w.getLsbD 2 = decide (s.seq = .fault) ∧
    w.getLsbD 3 = false ∧ w.extractLsb' 4 4 = s.errcode ∧ w.extractLsb' 8 24 = 0#24

/-- The values STATUS takes in the states that meet the invariant are exactly the seven of R57, with the layout of the
word and the level outputs that copy its bits. -/
def Obligations.StatusValues : Prop :=
  (∀ w : Word, (∃ s : State, s.Inv ∧ s.status = w) ↔
    w = 0x00#32 ∨ w = 0x01#32 ∨ w = 0x02#32 ∨ w = 0x14#32 ∨ w = 0x16#32 ∨ w = 0x24#32 ∨ w = 0x26#32) ∧
  ∀ s : State, s.Inv →
    ¬ (s.busy = true ∧ s.done = true) ∧ ¬ (s.busy = true ∧ s.err = true) ∧
    s.status.toNat = s.errcode.toNat * 16 + s.err.toNat * 4 + s.done.toNat * 2 + s.busy.toNat ∧
    s.busyPin = s.busy ∧ s.donePin = s.done ∧ s.errorPin = s.err

/-- WR_CMD (R103), with acceptance (R104): in IDLE an illegal word faults with code 2, an odd round count of a legal
word with code 1, anything else is accepted; held while RUN, refused in FAULT. -/
def Obligations.WrCmdDecodesItsWord : Prop :=
  ∀ (v : Word) (s : State),
    (s.seq = .idle → exec (.wrCmd v) s = .next (
      if v.extractLsb' 12 20 ≠ 0#20 ∨
          ¬ (v.extractLsb' 8 4 = 1#4 ∨ v.extractLsb' 8 4 = 2#4 ∨ v.extractLsb' 8 4 = 3#4) then
        { s with errcode := 2#4, seq := .fault, port := none, reply := .written }
      else if v.getLsbD 0 = true then
        { s with errcode := 1#4, seq := .fault, port := none, reply := .written }
      else
        { s with
          p := s.x.q0
          x := if v.extractLsb' 8 4 = 3#4 then
              ⟨s.x.q0, s.x.q0.setWord 12 (add32 (s.x.q0.word 12) 1#32),
                s.x.q0.setWord 12 (add32 (s.x.q0.word 12) 2#32), s.x.q0.setWord 12 (add32 (s.x.q0.word 12) 3#32)⟩
            else s.x
          rc := v.extractLsb' 0 8
          ph := false
          opadd := decide (v.extractLsb' 8 4 = 2#4)
          opbatch := decide (v.extractLsb' 8 4 = 3#4)
          done := false
          seq := .run
          port := none
          reply := .written })) ∧
    (s.seq = .run → exec (.wrCmd v) s = .next { s with port := some (encode (.wrCmd v)), reply := .noAck }) ∧
    (s.seq = .fault →
      exec (.wrCmd v) s = .next { s with port := none, reply := .refused, refusals := s.refusals + 1 })

/-- Acceptance (R104) of the three commands with an even round count in IDLE. -/
def Obligations.CommandsAccepted : Prop :=
  ∀ (op : Op) (r : BitVec 8) (s : State), s.seq = .idle → r.toNat % 2 = 0 →
    exec (op.instr r) s = .next
      { s with
        p := s.x.q0
        x := if op = .batchPermute then
            ⟨s.x.q0, s.x.q0.setWord 12 (add32 (s.x.q0.word 12) 1#32),
              s.x.q0.setWord 12 (add32 (s.x.q0.word 12) 2#32), s.x.q0.setWord 12 (add32 (s.x.q0.word 12) 3#32)⟩
          else s.x
        rc := r
        ph := false
        opadd := decide (op = .permuteAndAdd)
        opbatch := decide (op = .batchPermute)
        done := false
        seq := .run
        port := none
        reply := .written }

/-- The three commands with an odd round count in IDLE: fault code 1, nothing else of the engine changed, the write
acknowledged without an error (R120, R124). -/
def Obligations.OddRoundCountsFault : Prop :=
  ∀ (op : Op) (r : BitVec 8) (s : State), s.seq = .idle → r.toNat % 2 = 1 →
    exec (op.instr r) s = .next { s with errcode := 1#4, seq := .fault, port := none, reply := .written }

/-- In FAULT (R40): CMD writes are refused and change nothing; the windows and STATUS work as in IDLE. -/
def Obligations.AccessesInFault : Prop :=
  ∀ s : State, s.seq = .fault →
    (∀ v : Word,
      exec (.wrCmd v) s = .next { s with port := none, reply := .refused, refusals := s.refusals + 1 }) ∧
    (∀ (op : Op) (r : BitVec 8),
      exec (op.instr r) s = .next { s with port := none, reply := .refused, refusals := s.refusals + 1 }) ∧
    exec .rdStatus s = .next { s with port := none, reply := .read s.status } ∧
    (∀ (size : BitVec 2) (addr : BitVec 8) (wdata : Word) (t : State),
      exec (.wrBlock size addr wdata) { s with seq := .idle } = .next t →
        exec (.wrBlock size addr wdata) s = .next { t with seq := .fault }) ∧
    (∀ (size : BitVec 2) (addr : BitVec 8) (t : State),
      exec (.rdBlock size addr) { s with seq := .idle } = .next t →
        exec (.rdBlock size addr) s = .next { t with seq := .fault })

/-- The frame of the command writes on every path: lane 0's bytes never change, the other lanes change only when a
BATCH_PERMUTE is accepted, and unless SEQ was IDLE only the port, the reply and the mark change. -/
def Obligations.CommandWriteFrame : Prop :=
  ∀ (i : Instr) (s t : State),
    ((∃ v, i = .wrCmd v) ∨ ∃ op r, i = Op.instr op r) → exec i s = .next t →
    (∀ b : BitVec 8, b.toNat < 0x40 → t.windowByte b = s.windowByte b) ∧
    (¬ (s.seq = .idle ∧ t.seq = .run ∧ t.opbatch = true) → ∀ b : BitVec 8, t.windowByte b = s.windowByte b) ∧
    (s.seq ≠ .idle → t = { s with port := t.port, reply := t.reply, refusals := t.refusals }) ∧
    t.host = s.host ∧ (t.seq ≠ .fault → t.errcode = s.errcode) ∧
    (t.seq = .fault → t = { s with seq := .fault, errcode := t.errcode, port := t.port, reply := t.reply,
                                   refusals := t.refusals })

/-! ### The sequencer and the commands' results (R90 to R95, R112) -/

/-- The round step (R90), in RUN with RC not 0, when the turn is the sequencer's; whose turn it is is the model's choice
(log entry 1). -/
def Obligations.RoundStepRule : Prop :=
  ∀ (s : State) (h : List HostEvent), s.seq = .run → s.rc ≠ 0#8 →
    (s.host = .wait :: h ∨ s.host = h ∧ (s.port ≠ none ∧ ¬ s.resetNext ∧ s.host.head? ≠ some .wait ∨ s.host = [])) →
    step s = .next
      { s with
        x := if s.opbatch = true then
            ⟨rowround s.x.q0 s.ph, rowround s.x.q1 s.ph, rowround s.x.q2 s.ph, rowround s.x.q3 s.ph⟩
          else ⟨rowround s.x.q0 s.ph, s.x.q1, s.x.q2, s.x.q3⟩
        rc := s.rc - 1#8
        ph := !s.ph
        reply := .noAck
        host := h }

/-- The completion step (R93), in RUN with RC 0, when the turn is the sequencer's (log entry 1): the final addition word
by word when OPADD is 1. -/
def Obligations.CompletionStepRule : Prop :=
  ∀ (s : State) (h : List HostEvent), s.seq = .run → s.rc = 0#8 →
    (s.host = .wait :: h ∨ s.host = h ∧ (s.port ≠ none ∧ ¬ s.resetNext ∧ s.host.head? ≠ some .wait ∨ s.host = [])) →
    ∃ t, step s = .next t ∧
      t = { s with x := t.x, seq := .idle, done := true, reply := .noAck, host := h } ∧
      (∀ j : Fin 16, t.word 0 j = if s.opadd = true then add32 (s.word 0 j) (s.p.word j) else s.word 0 j) ∧
      (∀ (k : Fin 4) (j : Fin 16), k ≠ 0 → t.word k j = s.word k j)

/-- From RUN, RC round steps and one completion step lead to IDLE with DONE set; before that SEQ stays RUN and RC counts
down (R91, R152). With no host event left each step is the sequencer's (log entry 1). -/
def Obligations.RunCompletesAfterItsRounds : Prop :=
  ∀ s : State, s.seq = .run → s.host = [] →
    (∀ n : Nat, n ≤ s.rc.toNat → ∃ t, stepN n s = some t ∧ t.seq = .run ∧ t.rc.toNat = s.rc.toNat - n ∧
      t.port = s.port) ∧
    ∃ t, stepN (s.rc.toNat + 1) s = some t ∧ t.seq = .idle ∧ t.done = true ∧ t.rc = 0#8 ∧ t.port = s.port

/-- PERMUTE_ONLY from acceptance to completion (R94), the host presenting nothing else meanwhile (log entry 1). -/
def Obligations.PermuteOnlyResult : Prop :=
  ∀ (s : State) (r : BitVec 8), s.seq = .idle → s.port = none → s.host = [.access (encode (.permuteOnly r))] →
    r.toNat % 2 = 0 →
    ∃ t, stepN (r.toNat + 2) s = some t ∧
      t = { s with
            x := ⟨permute s.x.q0 r.toNat, s.x.q1, s.x.q2, s.x.q3⟩, p := s.x.q0, rc := 0#8, ph := false, opadd := false,
            opbatch := false, done := true, reply := .noAck, host := [] }

/-- PERMUTE_AND_ADD from acceptance to completion (R95), the host presenting nothing else meanwhile (log entry 1). -/
def Obligations.PermuteAndAddResult : Prop :=
  ∀ (s : State) (r : BitVec 8), s.seq = .idle → s.port = none → s.host = [.access (encode (.permuteAndAdd r))] →
    r.toNat % 2 = 0 →
    ∃ t, stepN (r.toNat + 2) s = some t ∧
      (∀ j : Fin 16, t.word 0 j = add32 ((permute s.x.q0 r.toNat).word j) (s.word 0 j)) ∧
      t = { s with
            x := ⟨t.x.q0, s.x.q1, s.x.q2, s.x.q3⟩, p := s.x.q0, rc := 0#8, ph := false, opadd := true,
            opbatch := false, done := true, reply := .noAck, host := [] }

/-- BATCH_PERMUTE from acceptance to completion (R112), the host presenting nothing else meanwhile (log entry 1). -/
def Obligations.BatchPermuteResult : Prop :=
  ∀ (s : State) (r : BitVec 8), s.seq = .idle → s.port = none → s.host = [.access (encode (.batchPermute r))] →
    r.toNat % 2 = 0 →
    ∃ t, stepN (r.toNat + 2) s = some t ∧
      (∀ k : Fin 4, t.x.get k = permute ((promote s.x.q0).get k) r.toNat) ∧
      t = { s with
            x := t.x, p := s.x.q0, rc := 0#8, ph := false, opadd := false, opbatch := true, done := true,
            reply := .noAck, host := [] }

/-- A word read of any lane issued right after a command is held, standing on the port with no `ack` from the second
step to completion, and returns the word of the command's result (R39, R42; the results are those of R94, R95, R112).
The count of steps is the model's choice (log entries 1, 8). -/
def Obligations.ReadAfterCommandReturnsResult : Prop :=
  ∀ (s : State) (op : Op) (r : BitVec 8) (k : Fin 4) (j : Fin 16), s.seq = .idle → s.port = none →
    s.host = [commandEvent op r, rd32 (wordOffset k j)] → r.toNat % 2 = 0 →
    (∀ n : Nat, 2 ≤ n → n ≤ r.toNat + 3 →
      ∃ u, stepN n s = some u ∧ u.port = some ⟨false, 2#2, wordOffset k j, 0#32⟩ ∧ u.reply = .noAck) ∧
    ∃ t, stepN (r.toNat + 4) s = some t ∧ t.seq = .idle ∧ t.port = none ∧ t.host = [] ∧
      t.reply = .read
        (match op with
        | .permuteOnly => if k = 0 then (permute s.x.q0 r.toNat).word j else s.word k j
        | .permuteAndAdd =>
          if k = 0 then add32 ((permute s.x.q0 r.toNat).word j) (s.word 0 j) else s.word k j
        | .batchPermute => (permute ((promote s.x.q0).get k) r.toNat).word j)

/-- WAIT_DONE (R63): it ends, with a STATUS read whose bit 0 is 0 and, when a command was running, whose bit 1 is 1. The
schedule of the reads is the model's choice (log entry 9); the claim does not count them. -/
def Obligations.WaitDoneEnds : Prop :=
  ∀ (s : State) (rest : List HostEvent), s.port = none → s.host = .waitDone :: rest →
    ∃ n t w, stepN n s = some t ∧ t.host = rest ∧ t.reply = .read w ∧ w.getLsbD 0 = false ∧
      t.seq ≠ .run ∧ (s.seq = .run → w.getLsbD 1 = true)

/-- LOAD_WORDS (R62): sixteen word writes put the sixteen words in lane `k` and change no other lane; that each write is
one step is the model's choice (log entry 1). -/
def Obligations.LoadWordsFillsLane : Prop :=
  ∀ (s : State) (k : Fin 4) (w : Block), s.seq ≠ .run → s.port = none → s.host = loadWords k w →
    ∃ t, stepN 16 s = some t ∧ t.x = s.x.set k w ∧
      t = { s with x := t.x, reply := .written, host := [] }

/-! ### Invariants -/

/-- Every step keeps the invariant of control state: ERRCODE goes with SEQ, the running command's latches are
consistent, and what stands on the port can be held. -/
def Obligations.StepKeepsControlInvariant : Prop := ∀ s t : State, s.Inv → step s = .next t → t.Inv

/-- The reset state meets the control invariant. -/
def Obligations.ResetMeetsControlInvariant : Prop := State.reset.Inv

/-- Every step keeps the invariant of the data path: while RUN, some number of rounds of the accepted command has been
run on what P holds, in every lane of the command, with RC and PH to match (R22, R90, R112). -/
def Obligations.StepKeepsCommandProgress : Prop :=
  ∀ s t : State, s.CommandProgress → step s = .next t → t.CommandProgress

/-- The reset state meets the data-path invariant, and so does every state acceptance leaves. -/
def Obligations.AcceptanceStartsCommandProgress : Prop :=
  State.reset.CommandProgress ∧
  ∀ (op : Op) (r : BitVec 8) (s t : State), s.seq = .idle → r.toNat % 2 = 0 → exec (op.instr r) s = .next t →
    t.seq = .run ∧ t.ranRounds 0 ∧ (op = .permuteAndAdd ↔ t.opadd = true) ∧ (op = .batchPermute ↔ t.opbatch = true)
end

