-- ==== Sys2Proof/Laws/State.lean ====
section
/-! SUPPORT. What each update of the state does to each field, one lemma a field, so that no proof unfolds an update;
and the read-after-write laws of the four-element record. -/

namespace Sys2Proof

@[simp] theorem Quad.get_set_self {α : Type} (v : Quad α) (i : Fin 4) (a : α) : (v.set i a).get i = a := by
  match i with
  | 0 => rfl
  | 1 => rfl
  | 2 => rfl
  | 3 => rfl

theorem Quad.get_set_ne {α : Type} (v : Quad α) (i j : Fin 4) (a : α) (h : j ≠ i) : (v.set i a).get j = v.get j := by
  match i, j with
  | 0, 0 => exact absurd rfl h
  | 0, 1 => rfl
  | 0, 2 => rfl
  | 0, 3 => rfl
  | 1, 0 => rfl
  | 1, 1 => exact absurd rfl h
  | 1, 2 => rfl
  | 1, 3 => rfl
  | 2, 0 => rfl
  | 2, 1 => rfl
  | 2, 2 => exact absurd rfl h
  | 2, 3 => rfl
  | 3, 0 => rfl
  | 3, 1 => rfl
  | 3, 2 => rfl
  | 3, 3 => exact absurd rfl h

theorem Quad.ext_get {α : Type} {v w : Quad α} (h : ∀ i, v.get i = w.get i) : v = w := by
  cases v
  cases w
  have h0 := h 0
  have h1 := h 1
  have h2 := h 2
  have h3 := h 3
  simp only [Quad.get] at h0 h1 h2 h3
  simp only [h0, h1, h2, h3]

@[simp] theorem Quad.get_ofFn {α : Type} (f : Fin 4 → α) (i : Fin 4) : (Quad.ofFn f).get i = f i := by
  match i with
  | 0 => rfl
  | 1 => rfl
  | 2 => rfl
  | 3 => rfl

@[simp] theorem Quad.get_map {α β : Type} (f : α → β) (v : Quad α) (i : Fin 4) : (v.map f).get i = f (v.get i) := by
  match i with
  | 0 => rfl
  | 1 => rfl
  | 2 => rfl
  | 3 => rfl

@[simp] theorem Quad.get_zipWith {α β γ : Type} (f : α → β → γ) (v : Quad α) (w : Quad β) (i : Fin 4) :
    (Quad.zipWith f v w).get i = f (v.get i) (w.get i) := by
  match i with
  | 0 => rfl
  | 1 => rfl
  | 2 => rfl
  | 3 => rfl

/-- An index is its row and its column (R7). -/
theorem index_eq_of_row_col {i j : Fin 16} (hr : rowIndex i = rowIndex j) (hc : colIndex i = colIndex j) : i = j := by
  have h1 : i.val / 4 = j.val / 4 := congrArg Fin.val hr
  have h2 : i.val % 4 = j.val % 4 := congrArg Fin.val hc
  exact Fin.ext (by omega)

@[simp] theorem Quad.word_setWord_self {α : Type} (x : Matrix4 α) (j : Fin 16) (v : α) :
    (Quad.setWord x j v).word j = v := by
  simp [Quad.word, Quad.setWord]

theorem Quad.word_setWord_ne {α : Type} (x : Matrix4 α) (i j : Fin 16) (v : α) (h : j ≠ i) :
    (Quad.setWord x i v).word j = x.word j := by
  unfold Quad.word Quad.setWord
  by_cases hr : rowIndex j = rowIndex i
  · have hc : colIndex j ≠ colIndex i := fun hc => h (index_eq_of_row_col hr hc)
    rw [hr, Quad.get_set_self, Quad.get_set_ne _ _ _ _ hc]
  · rw [Quad.get_set_ne _ _ _ _ hr]

/-- Two blocks with the same 16 words are the same block. -/
theorem Quad.ext_word {α : Type} {x y : Matrix4 α} (h : ∀ j, x.word j = y.word j) : x = y := by
  refine Quad.ext_get fun r => Quad.ext_get fun c => ?_
  have hj := h ⟨4 * r.val + c.val, by omega⟩
  have hr : rowIndex ⟨4 * r.val + c.val, by omega⟩ = r := Fin.ext (by simp only [rowIndex]; omega)
  have hc : colIndex ⟨4 * r.val + c.val, by omega⟩ = c := Fin.ext (by simp only [colIndex]; omega)
  unfold Quad.word at hj
  rwa [hr, hc] at hj

namespace Machine

variable (s : State)

@[simp] theorem raiseFault_x (code : BitVec 4) : (s.raiseFault code).x = s.x := rfl
@[simp] theorem raiseFault_p (code : BitVec 4) : (s.raiseFault code).p = s.p := rfl
@[simp] theorem raiseFault_rc (code : BitVec 4) : (s.raiseFault code).rc = s.rc := rfl
@[simp] theorem raiseFault_ph (code : BitVec 4) : (s.raiseFault code).ph = s.ph := rfl
@[simp] theorem raiseFault_opadd (code : BitVec 4) : (s.raiseFault code).opadd = s.opadd := rfl
@[simp] theorem raiseFault_opbatch (code : BitVec 4) : (s.raiseFault code).opbatch = s.opbatch := rfl
@[simp] theorem raiseFault_seq (code : BitVec 4) : (s.raiseFault code).seq = .fault := rfl
@[simp] theorem raiseFault_done (code : BitVec 4) : (s.raiseFault code).done = s.done := rfl
@[simp] theorem raiseFault_errcode (code : BitVec 4) : (s.raiseFault code).errcode = code := rfl
@[simp] theorem raiseFault_port (code : BitVec 4) : (s.raiseFault code).port = s.port := rfl
@[simp] theorem raiseFault_reply (code : BitVec 4) : (s.raiseFault code).reply = s.reply := rfl
@[simp] theorem raiseFault_host (code : BitVec 4) : (s.raiseFault code).host = s.host := rfl
@[simp] theorem raiseFault_refusals (code : BitVec 4) : (s.raiseFault code).refusals = s.refusals := rfl

@[simp] theorem accept_x (op : Op) (r : BitVec 8) :
    (s.accept op r).x = if op = .batchPermute then promoteLanes s.x else s.x := rfl
@[simp] theorem accept_p (op : Op) (r : BitVec 8) : (s.accept op r).p = s.x.q0 := rfl
@[simp] theorem accept_rc (op : Op) (r : BitVec 8) : (s.accept op r).rc = r := rfl
@[simp] theorem accept_ph (op : Op) (r : BitVec 8) : (s.accept op r).ph = false := rfl
@[simp] theorem accept_opadd (op : Op) (r : BitVec 8) : (s.accept op r).opadd = (op == .permuteAndAdd) := rfl
@[simp] theorem accept_opbatch (op : Op) (r : BitVec 8) : (s.accept op r).opbatch = (op == .batchPermute) := rfl
@[simp] theorem accept_seq (op : Op) (r : BitVec 8) : (s.accept op r).seq = .run := rfl
@[simp] theorem accept_done (op : Op) (r : BitVec 8) : (s.accept op r).done = false := rfl
@[simp] theorem accept_errcode (op : Op) (r : BitVec 8) : (s.accept op r).errcode = s.errcode := rfl
@[simp] theorem accept_port (op : Op) (r : BitVec 8) : (s.accept op r).port = s.port := rfl
@[simp] theorem accept_reply (op : Op) (r : BitVec 8) : (s.accept op r).reply = s.reply := rfl
@[simp] theorem accept_host (op : Op) (r : BitVec 8) : (s.accept op r).host = s.host := rfl
@[simp] theorem accept_refusals (op : Op) (r : BitVec 8) : (s.accept op r).refusals = s.refusals := rfl

@[simp] theorem setWord_x (k : Fin 4) (j : Fin 16) (v : Word) :
    (s.setWord k j v).x = s.x.set k ((s.x.get k).setWord j v) := rfl
@[simp] theorem setWord_p (k : Fin 4) (j : Fin 16) (v : Word) : (s.setWord k j v).p = s.p := rfl
@[simp] theorem setWord_rc (k : Fin 4) (j : Fin 16) (v : Word) : (s.setWord k j v).rc = s.rc := rfl
@[simp] theorem setWord_ph (k : Fin 4) (j : Fin 16) (v : Word) : (s.setWord k j v).ph = s.ph := rfl
@[simp] theorem setWord_opadd (k : Fin 4) (j : Fin 16) (v : Word) : (s.setWord k j v).opadd = s.opadd := rfl
@[simp] theorem setWord_opbatch (k : Fin 4) (j : Fin 16) (v : Word) : (s.setWord k j v).opbatch = s.opbatch := rfl
@[simp] theorem setWord_seq (k : Fin 4) (j : Fin 16) (v : Word) : (s.setWord k j v).seq = s.seq := rfl
@[simp] theorem setWord_done (k : Fin 4) (j : Fin 16) (v : Word) : (s.setWord k j v).done = s.done := rfl
@[simp] theorem setWord_errcode (k : Fin 4) (j : Fin 16) (v : Word) : (s.setWord k j v).errcode = s.errcode := rfl
@[simp] theorem setWord_port (k : Fin 4) (j : Fin 16) (v : Word) : (s.setWord k j v).port = s.port := rfl
@[simp] theorem setWord_reply (k : Fin 4) (j : Fin 16) (v : Word) : (s.setWord k j v).reply = s.reply := rfl
@[simp] theorem setWord_host (k : Fin 4) (j : Fin 16) (v : Word) : (s.setWord k j v).host = s.host := rfl
@[simp] theorem setWord_refusals (k : Fin 4) (j : Fin 16) (v : Word) : (s.setWord k j v).refusals = s.refusals := rfl

@[simp] theorem writeWindow_p (a : BitVec 9) (n : Nat) (v : Word) : (s.writeWindow a n v).p = s.p := rfl
@[simp] theorem writeWindow_rc (a : BitVec 9) (n : Nat) (v : Word) : (s.writeWindow a n v).rc = s.rc := rfl
@[simp] theorem writeWindow_ph (a : BitVec 9) (n : Nat) (v : Word) : (s.writeWindow a n v).ph = s.ph := rfl
@[simp] theorem writeWindow_opadd (a : BitVec 9) (n : Nat) (v : Word) : (s.writeWindow a n v).opadd = s.opadd := rfl
@[simp] theorem writeWindow_opbatch (a : BitVec 9) (n : Nat) (v : Word) :
    (s.writeWindow a n v).opbatch = s.opbatch := rfl
@[simp] theorem writeWindow_seq (a : BitVec 9) (n : Nat) (v : Word) : (s.writeWindow a n v).seq = s.seq := rfl
@[simp] theorem writeWindow_done (a : BitVec 9) (n : Nat) (v : Word) : (s.writeWindow a n v).done = s.done := rfl
@[simp] theorem writeWindow_errcode (a : BitVec 9) (n : Nat) (v : Word) :
    (s.writeWindow a n v).errcode = s.errcode := rfl
@[simp] theorem writeWindow_port (a : BitVec 9) (n : Nat) (v : Word) : (s.writeWindow a n v).port = s.port := rfl
@[simp] theorem writeWindow_reply (a : BitVec 9) (n : Nat) (v : Word) : (s.writeWindow a n v).reply = s.reply := rfl
@[simp] theorem writeWindow_host (a : BitVec 9) (n : Nat) (v : Word) : (s.writeWindow a n v).host = s.host := rfl
@[simp] theorem writeWindow_refusals (a : BitVec 9) (n : Nat) (v : Word) :
    (s.writeWindow a n v).refusals = s.refusals := rfl

@[simp] theorem refuse_x : s.refuse.x = s.x := rfl
@[simp] theorem refuse_p : s.refuse.p = s.p := rfl
@[simp] theorem refuse_rc : s.refuse.rc = s.rc := rfl
@[simp] theorem refuse_ph : s.refuse.ph = s.ph := rfl
@[simp] theorem refuse_opadd : s.refuse.opadd = s.opadd := rfl
@[simp] theorem refuse_opbatch : s.refuse.opbatch = s.opbatch := rfl
@[simp] theorem refuse_seq : s.refuse.seq = s.seq := rfl
@[simp] theorem refuse_done : s.refuse.done = s.done := rfl
@[simp] theorem refuse_errcode : s.refuse.errcode = s.errcode := rfl
@[simp] theorem refuse_port : s.refuse.port = none := rfl
@[simp] theorem refuse_reply : s.refuse.reply = .refused := rfl
@[simp] theorem refuse_host : s.refuse.host = s.host := rfl
@[simp] theorem refuse_refusals : s.refuse.refusals = s.refusals + 1 := rfl

@[simp] theorem hold_x (a : Access) : (s.hold a).x = s.x := rfl
@[simp] theorem hold_p (a : Access) : (s.hold a).p = s.p := rfl
@[simp] theorem hold_rc (a : Access) : (s.hold a).rc = s.rc := rfl
@[simp] theorem hold_ph (a : Access) : (s.hold a).ph = s.ph := rfl
@[simp] theorem hold_opadd (a : Access) : (s.hold a).opadd = s.opadd := rfl
@[simp] theorem hold_opbatch (a : Access) : (s.hold a).opbatch = s.opbatch := rfl
@[simp] theorem hold_seq (a : Access) : (s.hold a).seq = s.seq := rfl
@[simp] theorem hold_done (a : Access) : (s.hold a).done = s.done := rfl
@[simp] theorem hold_errcode (a : Access) : (s.hold a).errcode = s.errcode := rfl
@[simp] theorem hold_port (a : Access) : (s.hold a).port = some a := rfl
@[simp] theorem hold_reply (a : Access) : (s.hold a).reply = .noAck := rfl
@[simp] theorem hold_host (a : Access) : (s.hold a).host = s.host := rfl
@[simp] theorem hold_refusals (a : Access) : (s.hold a).refusals = s.refusals := rfl

@[simp] theorem roundStep_x :
    s.roundStep.x = if s.opbatch then s.x.map (fun b => rowround b s.ph) else { s.x with q0 := rowround s.x.q0 s.ph } := rfl
@[simp] theorem roundStep_p : s.roundStep.p = s.p := rfl
@[simp] theorem roundStep_rc : s.roundStep.rc = s.rc - 1#8 := rfl
@[simp] theorem roundStep_ph : s.roundStep.ph = !s.ph := rfl
@[simp] theorem roundStep_opadd : s.roundStep.opadd = s.opadd := rfl
@[simp] theorem roundStep_opbatch : s.roundStep.opbatch = s.opbatch := rfl
@[simp] theorem roundStep_seq : s.roundStep.seq = s.seq := rfl
@[simp] theorem roundStep_done : s.roundStep.done = s.done := rfl
@[simp] theorem roundStep_errcode : s.roundStep.errcode = s.errcode := rfl
@[simp] theorem roundStep_port : s.roundStep.port = s.port := rfl
@[simp] theorem roundStep_reply : s.roundStep.reply = s.reply := rfl
@[simp] theorem roundStep_host : s.roundStep.host = s.host := rfl
@[simp] theorem roundStep_refusals : s.roundStep.refusals = s.refusals := rfl

@[simp] theorem completionStep_x :
    s.completionStep.x = if s.opadd then { s.x with q0 := addWords s.x.q0 s.p } else s.x := rfl
@[simp] theorem completionStep_p : s.completionStep.p = s.p := rfl
@[simp] theorem completionStep_rc : s.completionStep.rc = s.rc := rfl
@[simp] theorem completionStep_ph : s.completionStep.ph = s.ph := rfl
@[simp] theorem completionStep_opadd : s.completionStep.opadd = s.opadd := rfl
@[simp] theorem completionStep_opbatch : s.completionStep.opbatch = s.opbatch := rfl
@[simp] theorem completionStep_seq : s.completionStep.seq = .idle := rfl
@[simp] theorem completionStep_done : s.completionStep.done = true := rfl
@[simp] theorem completionStep_errcode : s.completionStep.errcode = s.errcode := rfl
@[simp] theorem completionStep_port : s.completionStep.port = s.port := rfl
@[simp] theorem completionStep_reply : s.completionStep.reply = s.reply := rfl
@[simp] theorem completionStep_host : s.completionStep.host = s.host := rfl
@[simp] theorem completionStep_refusals : s.completionStep.refusals = s.refusals := rfl

@[simp] theorem resetStep_x : s.resetStep.x = State.reset.x := rfl
@[simp] theorem resetStep_p : s.resetStep.p = State.reset.p := rfl
@[simp] theorem resetStep_rc : s.resetStep.rc = 0#8 := rfl
@[simp] theorem resetStep_ph : s.resetStep.ph = false := rfl
@[simp] theorem resetStep_opadd : s.resetStep.opadd = false := rfl
@[simp] theorem resetStep_opbatch : s.resetStep.opbatch = false := rfl
@[simp] theorem resetStep_seq : s.resetStep.seq = .idle := rfl
@[simp] theorem resetStep_done : s.resetStep.done = false := rfl
@[simp] theorem resetStep_errcode : s.resetStep.errcode = 0#4 := rfl
@[simp] theorem resetStep_port : s.resetStep.port = none := rfl
@[simp] theorem resetStep_reply : s.resetStep.reply = .noAck := rfl
@[simp] theorem resetStep_host : s.resetStep.host = s.host := rfl
@[simp] theorem resetStep_refusals :
    s.resetStep.refusals = if s.port.isSome then s.refusals + 1 else s.refusals := rfl

@[simp] theorem presenting_x (a : Access) : (s.presenting a).x = s.x := rfl
@[simp] theorem presenting_p (a : Access) : (s.presenting a).p = s.p := rfl
@[simp] theorem presenting_rc (a : Access) : (s.presenting a).rc = s.rc := rfl
@[simp] theorem presenting_ph (a : Access) : (s.presenting a).ph = s.ph := rfl
@[simp] theorem presenting_opadd (a : Access) : (s.presenting a).opadd = s.opadd := rfl
@[simp] theorem presenting_opbatch (a : Access) : (s.presenting a).opbatch = s.opbatch := rfl
@[simp] theorem presenting_seq (a : Access) : (s.presenting a).seq = s.seq := rfl
@[simp] theorem presenting_done (a : Access) : (s.presenting a).done = s.done := rfl
@[simp] theorem presenting_errcode (a : Access) : (s.presenting a).errcode = s.errcode := rfl
@[simp] theorem presenting_port (a : Access) : (s.presenting a).port = none := rfl
@[simp] theorem presenting_reply (a : Access) : (s.presenting a).reply = s.reply := rfl
@[simp] theorem presenting_host (a : Access) : (s.presenting a).host = .access a :: s.host := rfl
@[simp] theorem presenting_refusals (a : Access) : (s.presenting a).refusals = s.refusals := rfl

end Machine

end Sys2Proof
end

