-- ==== Sys2Proof/Laws/Ops.lean ====
section
/-! SUPPORT. For each shared operation, one lemma that says once everything it can do: citing it replaces unfolding
the operation. -/

namespace Sys2Proof.Machine

/-- A block offset is the address bits as a number, below 0x100 (R52). -/
@[simp] theorem blockOffset_toNat (addr : BitVec 8) : (blockOffset addr).toNat = addr.toNat := by
  unfold blockOffset
  rw [BitVec.toNat_append]
  simp

/-- Everything `cmdWrite` can answer (R34 branch 5). -/
theorem cmdWrite_cases (s : State) (f : State → State) :
    (s.seq = .run ∧ s.cmdWrite f = .held) ∨ (s.seq = .fault ∧ s.cmdWrite f = .refused) ∨
      (s.seq = .idle ∧ s.cmdWrite f = .performed (f s)) := by
  unfold State.cmdWrite
  cases s.seq <;> simp

/-- Everything `startCommand` can do (R103, R120). -/
theorem startCommand_cases (s : State) (op : Op) (r : BitVec 8) :
    (roundsOk r = false ∧ s.startCommand op r = s.raiseFault errOddRounds) ∨
      (roundsOk r = true ∧ s.startCommand op r = s.accept op r) := by
  unfold State.startCommand roundsOk
  cases r.getLsbD 0 <;> simp

/-- Everything `writeCmd` can do (R103): fault 2, fault 1, or acceptance of the word's operation. -/
theorem writeCmd_cases (s : State) (v : Word) :
    ((cmdRsv v ≠ 0#20 ∨ opOfField (cmdOp v) = none) ∧ s.writeCmd v = s.raiseFault errIllegalCmd) ∨
      (∃ op, cmdRsv v = 0#20 ∧ opOfField (cmdOp v) = some op ∧ v.getLsbD 0 = true ∧
        s.writeCmd v = s.raiseFault errOddRounds) ∨
      (∃ op, cmdRsv v = 0#20 ∧ opOfField (cmdOp v) = some op ∧ v.getLsbD 0 = false ∧
        s.writeCmd v = s.accept op (cmdRounds v)) := by
  unfold State.writeCmd
  by_cases h : cmdRsv v = 0#20
  · cases hop : opOfField (cmdOp v) with
    | none => simp [h]
    | some op => cases hv : v.getLsbD 0 <;> simp [h]
  · simp [h]

/-- Everything `memRead` can answer for a block access, `addr[8] = 0` (R33, R101). -/
theorem memRead_block (s : State) (size : BitVec 2) (addr : BitVec 8) :
    s.memRead (blockOffset addr) (sizeBytes size) =
      if blockAccessOk size addr = false then .refused
      else if s.seq = .run then .held
      else .value (takeBytes (s.word (laneOf (blockOffset addr)) (wordOf (blockOffset addr)))
        (byteOf (blockOffset addr)) (sizeBytes size)) := by
  have ha := blockOffset_toNat addr
  have hlt : addr.toNat < 256 := addr.isLt
  have hs : size = 0#2 ∨ size = 1#2 ∨ size = 2#2 ∨ size = 3#2 := by
    revert size; decide
  have hnot : ¬ 0x108 ≤ addr.toNat ∧ ¬ (0x100 ≤ addr.toNat ∧ addr.toNat ≤ 0x103) ∧
      ¬ (0x104 ≤ addr.toNat ∧ addr.toNat ≤ 0x107) := by omega
  unfold State.memRead
  simp only [ha, if_neg hnot.1, if_neg hnot.2.1, if_neg hnot.2.2]
  rcases hs with rfl | rfl | rfl | rfl <;> simp [sizeBytes, blockAccessOk]

/-- Everything `memWrite` can answer for a block access, `addr[8] = 0` (R34, R100). -/
theorem memWrite_block (s : State) (size : BitVec 2) (addr : BitVec 8) (v : Word) :
    s.memWrite (blockOffset addr) (sizeBytes size) v =
      if blockAccessOk size addr = false then .refused
      else if s.seq = .run then .held
      else .performed (s.writeWindow (blockOffset addr) (sizeBytes size) v) := by
  have ha := blockOffset_toNat addr
  have hlt : addr.toNat < 256 := addr.isLt
  have hs : size = 0#2 ∨ size = 1#2 ∨ size = 2#2 ∨ size = 3#2 := by
    revert size; decide
  have hnot : ¬ 0x108 ≤ addr.toNat ∧ ¬ (0x104 ≤ addr.toNat ∧ addr.toNat ≤ 0x107) ∧
      ¬ (0x100 ≤ addr.toNat ∧ addr.toNat ≤ 0x103) := by omega
  unfold State.memWrite
  simp only [ha, if_neg hnot.1, if_neg hnot.2.1, if_neg hnot.2.2]
  rcases hs with rfl | rfl | rfl | rfl <;> simp [sizeBytes, blockAccessOk]

/-- A four-byte write of CMD is the command write (R34 branch 5). -/
theorem memWrite_cmd (s : State) (v : Word) :
    s.memWrite 0x100#9 4 v = s.cmdWrite fun t => t.writeCmd v := by
  simp [State.memWrite]

/-- A four-byte read of STATUS answers the status word (R33 branch 5, R105). -/
theorem memRead_status (s : State) : s.memRead 0x104#9 4 = .value s.status := by
  simp [State.memRead]

/-- Every answer to a read is a next state, and it changes the port, the reply and the mark only. -/
theorem answerRead_next (s : State) (a : Access) (r : ReadResult) :
    ∃ port reply refusals,
      s.answerRead a r = .next { s with port := port, reply := reply, refusals := refusals } := by
  cases r <;> exact ⟨_, _, _, rfl⟩

/-- Every answer to a write is a next state: refused, held, or the written state with the port cleared. -/
theorem answerWrite_cases (s : State) (a : Access) (r : WriteResult) :
    (r = .refused ∧ s.answerWrite a r = .next s.refuse) ∨ (r = .held ∧ s.answerWrite a r = .next (s.hold a)) ∨
      ∃ t, r = .performed t ∧ s.answerWrite a r = .next { t with port := none, reply := .written } := by
  cases r with
  | refused => exact .inl ⟨rfl, rfl⟩
  | held => exact .inr (.inl ⟨rfl, rfl⟩)
  | performed t => exact .inr (.inr ⟨t, rfl, rfl⟩)

/-- Everything the sequencer can do (R90, R93, R128). -/
theorem sequencer_cases (s : State) :
    (s.seq ≠ .run ∧ s.sequencer = s) ∨ (s.seq = .run ∧ s.rc = 0#8 ∧ s.sequencer = s.completionStep) ∨
      (s.seq = .run ∧ s.rc ≠ 0#8 ∧ s.sequencer = s.roundStep) := by
  unfold State.sequencer
  cases h : s.seq <;> by_cases hr : s.rc = 0#8 <;> simp [hr]

/-- Everything a turn can be (R10): reset, the sequencer's move from a state that differs in the host's events only, or
an access served with the port cleared. -/
theorem turn_cases (s : State) :
    (∃ rest, s.host = .reset :: rest ∧ s.turn = .reset { s with host := rest }) ∨
      (¬ s.resetNext ∧ ∃ h, s.turn = .sequencer { s with host := h }) ∨
      (¬ s.resetNext ∧ ∃ a h, (s.port = none ∨ s.port = some a ∧ s.seq ≠ .run) ∧
        s.turn = .serve a { s with port := none, host := h }) := by
  rcases s with ⟨x, p, rc, ph, opadd, opbatch, seq, dn, errcode, port, reply, host, refusals⟩
  rcases host with _ | ⟨e, rest⟩
  · cases port with
    | none => exact .inr (.inl ⟨by simp [State.resetNext], [], rfl⟩)
    | some a => cases seq <;> simp [State.turn, State.resetNext, State.passWait]
  · cases e with
    | reset => exact .inl ⟨rest, rfl, rfl⟩
    | access b => cases port <;> cases seq <;> simp [State.turn, State.resetNext, State.passWait]
    | wait => cases port <;> cases seq <;> simp [State.turn, State.resetNext, State.passWait]
    | waitDone => cases port <;> cases seq <;> simp [State.turn, State.resetNext, State.passWait]

/-- The turn serves an access exactly when the state says which (R10, R38, R39). -/
theorem turn_serve_iff (s : State) (a : Access) : (∃ u, s.turn = .serve a u) ↔ s.serves a := by
  rcases s with ⟨x, p, rc, ph, opadd, opbatch, seq, dn, errcode, port, reply, host, refusals⟩
  rcases host with _ | ⟨e, rest⟩
  · cases port <;> cases seq <;> simp [State.turn, State.serves, State.resetNext]
  · cases e <;> cases port <;> cases seq <;> simp [State.turn, State.serves, State.resetNext, eq_comm]

/-- Outside RUN, a turn that serves no access and is no reset is nobody's move: at most a `wait` of the host passes
(R10, R128). -/
theorem turn_quiet (s : State) (hr : ¬ s.resetNext) (hs : s.seq ≠ .run) (hq : ∀ a, ¬ s.serves a) :
    s.turn = .sequencer { s with host := s.host.tail } := by
  rcases s with ⟨x, p, rc, ph, opadd, opbatch, seq, dn, errcode, port, reply, host, refusals⟩
  cases port with
  | some a => exact absurd (.inl ⟨rfl, hs, hr⟩) (hq a)
  | none =>
    rcases host with _ | ⟨e, rest⟩
    · rfl
    · cases e with
      | reset => exact absurd rfl hr
      | access b => exact absurd (.inr ⟨rfl, .inl rfl⟩) (hq b)
      | waitDone => exact absurd (.inr ⟨rfl, .inr ⟨rfl, rfl⟩⟩) (hq statusRead)
      | wait => rfl

end Sys2Proof.Machine
end

