-- ==== Sys2Proof/Laws/PerInstr.lean ====
section
/-! SUPPORT. Statements about every instruction as syntax, one lemma per constructor; and that no two rows of a decode
table overlap. -/

namespace Sys2Proof

/-- No descriptor fits two rows of format BUS: any two rows test a common bit for different values. -/
theorem busRows_disjoint :
    busRows.Pairwise fun r r' => r.mask &&& r'.mask &&& (r.pattern ^^^ r'.pattern) ≠ 0#12 := by decide

/-- No word fits two rows of format CMD. -/
theorem cmdRows_disjoint :
    cmdRows.Pairwise fun r r' => r.mask &&& r'.mask &&& (r.pattern ^^^ r'.pattern) ≠ 0#32 := by decide

/-- A command word is written with the descriptor of WR_CMD (R52, R60). -/
@[simp] theorem cmdAccess_descriptor (word : Word) : (cmdAccess word).descriptor = 0xD00#12 := by
  show BitVec.ofBool ((0xD00#12).getLsbD 11) ++ (0xD00#12).extractLsb' 9 2 ++ (0xD00#12).extractLsb' 0 9 = 0xD00#12
  decide

namespace Laws.EncodesItsRow

/-- The row of format BUS that presents an instruction (R52). -/
def busRow : Instr → Row 12
  | .wrCmd _ => rowWrCmd
  | .rdStatus => rowRdStatus
  | .wrBlock _ _ _ => rowWrBlock
  | .rdBlock _ _ => rowRdBlock
  | .permuteOnly _ => rowWrCmd
  | .permuteAndAdd _ => rowWrCmd
  | .batchPermute _ => rowWrCmd

/-- The row of format CMD of a command (R54). -/
def cmdRow : Instr → Option (Row 32)
  | .wrCmd _ => none
  | .rdStatus => none
  | .wrBlock _ _ _ => none
  | .rdBlock _ _ => none
  | .permuteOnly _ => some rowPermuteOnly
  | .permuteAndAdd _ => some rowPermuteAndAdd
  | .batchPermute _ => some rowBatchPermute

/-- An instruction's encoding fits the rows of the opcode table it belongs to. -/
def Statement (i : Instr) : Prop :=
  (busRow i).fits (encode i).descriptor = true ∧ ∀ r, cmdRow i = some r → r.fits (encode i).wdata = true

/-- WR_CMD's row, for every access that writes CMD. -/
theorem cmd_fits (word : Word) : rowWrCmd.fits (cmdAccess word).descriptor = true := by
  rw [cmdAccess_descriptor]
  decide

theorem wrCmd (word : Word) : Statement (.wrCmd word) := ⟨cmd_fits word, fun _ h => nomatch h⟩

theorem rdStatus : Statement .rdStatus := ⟨rfl, fun _ h => nomatch h⟩

theorem block_descriptor : ∀ (size : BitVec 2) (addr : BitVec 8),
    rowWrBlock.fits (BitVec.ofBool true ++ size ++ (0#1 ++ addr)) = true ∧
      rowRdBlock.fits (BitVec.ofBool false ++ size ++ (0#1 ++ addr)) = true := by decide +kernel

theorem wrBlock (size : BitVec 2) (addr : BitVec 8) (wdata : Word) : Statement (.wrBlock size addr wdata) :=
  ⟨(block_descriptor size addr).1, fun _ h => nomatch h⟩

theorem rdBlock (size : BitVec 2) (addr : BitVec 8) : Statement (.rdBlock size addr) :=
  ⟨(block_descriptor size addr).2, fun _ h => nomatch h⟩

theorem command_word : ∀ rounds : BitVec 8,
    rowPermuteOnly.fits (Op.permuteOnly.commandWord rounds) = true ∧
      rowPermuteAndAdd.fits (Op.permuteAndAdd.commandWord rounds) = true ∧
      rowBatchPermute.fits (Op.batchPermute.commandWord rounds) = true := by decide +kernel

theorem permuteOnly (rounds : BitVec 8) : Statement (.permuteOnly rounds) :=
  ⟨cmd_fits _, fun r h => by cases h; exact (command_word rounds).1⟩

theorem permuteAndAdd (rounds : BitVec 8) : Statement (.permuteAndAdd rounds) :=
  ⟨cmd_fits _, fun r h => by cases h; exact (command_word rounds).2.1⟩

theorem batchPermute (rounds : BitVec 8) : Statement (.batchPermute rounds) :=
  ⟨cmd_fits _, fun r h => by cases h; exact (command_word rounds).2.2⟩

end Laws.EncodesItsRow

end Sys2Proof
end

