-- ==== Sys2Proof/Tests/Slice0.lean ====
section
/-! SUPPORT. The model's own tests. Expected values come from the spec's worked examples (spec/95_test_vectors.md and
the examples of the rules) or are worked out by hand from a rule; each test cites where. The last part gives, for each
statement with hypotheses, a state and operands that meet them. -/

-- The kernel evaluations one after another: side by side, each waits on a thread of its own.
set_option Elab.async false

namespace Sys2Proof.Tests

open Sys2Proof.Machine

/-! ### Well-formedness (constraint column of the opcode table) -/

theorem test_wellFormed_accepts :
    (Instr.wrBlock 2#2 0x30#8 1#32).wellFormed = true ∧ (Instr.rdBlock 1#2 0x02#8).wellFormed = true ∧
      (Instr.permuteOnly 20#8).wellFormed = true := by decide

theorem test_illformed_size_refused :
    (Instr.wrBlock 3#2 0x00#8 0#32).wellFormed = false ∧ (Instr.rdBlock 3#2 0x08#8).wellFormed = false := by decide

theorem test_illformed_alignment_refused :
    (Instr.wrBlock 1#2 0x01#8 0#32).wellFormed = false ∧ (Instr.rdBlock 2#2 0x02#8).wellFormed = false := by decide

theorem test_illformed_rounds_refused :
    (Instr.permuteOnly 21#8).wellFormed = false ∧ (Instr.permuteAndAdd 1#8).wellFormed = false ∧
      (Instr.batchPermute 255#8).wellFormed = false := by decide

/-! ### Decoding, words written out bit by bit from R51 to R54 -/

/-- WR_CMD: we 1, size 10, addr 1_0000_0000. -/
theorem test_decode_wrCmd :
    decodeBus 0b1_10_100000000#12 0x14#32 = .ok (.wrCmd 0x14#32) ∧ decodeTableWord 16 0xD00 = some (.wrCmd 0#32) := by
  decide

/-- RD_STATUS: we 0, size 10, addr 1_0000_0100. -/
theorem test_decode_rdStatus :
    decodeBus 0b0_10_100000100#12 0#32 = .ok .rdStatus ∧ decodeTableWord 16 0x504 = some .rdStatus := by decide

/-- WR_BLOCK: we 1, size 00, addr 0, k 01, j 1101, i 11 (WR8 0x077). -/
theorem test_decode_wrBlock :
    decodeBus 0b1_00_0_01_1101_11#12 0x09000000#32 = .ok (.wrBlock 0#2 0x77#8 0x09000000#32) ∧
      decodeTableWord 16 0x800 = some (.wrBlock 0#2 0#8 0#32) := by decide

/-- RD_BLOCK: we 0, size 01, addr 0, k 11, j 1111, i 10 (RD16 0x0FE). -/
theorem test_decode_rdBlock :
    decodeBus 0b0_01_0_11_1111_10#12 0#32 = .ok (.rdBlock 1#2 0xFE#8) ∧
      decodeTableWord 16 0 = some (.rdBlock 0#2 0#8) := by decide

/-- PERMUTE_ONLY: RSV 0, OP 0001, ROUNDS 0001_0100. -/
theorem test_decode_permuteOnly :
    decodeCmd 0b00000000000000000000_0001_00010100#32 = .ok (.permuteOnly 20#8) ∧
      decodeTableWord 32 0x100 = some (.permuteOnly 0#8) := by decide

/-- PERMUTE_AND_ADD: RSV 0, OP 0010, ROUNDS 0001_0100. -/
theorem test_decode_permuteAndAdd :
    decodeCmd 0b00000000000000000000_0010_00010100#32 = .ok (.permuteAndAdd 20#8) ∧
      decodeTableWord 32 0x200 = some (.permuteAndAdd 0#8) := by decide

/-- BATCH_PERMUTE: RSV 0, OP 0011, ROUNDS 1111_1110. -/
theorem test_decode_batchPermute :
    decodeCmd 0b00000000000000000000_0011_11111110#32 = .ok (.batchPermute 254#8) ∧
      decodeTableWord 32 0x300 = some (.batchPermute 0#8) := by decide

/-- R52: a read of CMD, a write of STATUS, narrow accesses to either, the reserved range fit no row. -/
theorem test_decode_refused_descriptors :
    decodeBus 0x500#12 0#32 = .error .noBusRow ∧ decodeBus 0xD04#12 0#32 = .error .noBusRow ∧
      decodeBus 0x304#12 0#32 = .error .noBusRow ∧ decodeBus 0x900#12 0#32 = .error .noBusRow ∧
      decodeBus 0x508#12 0#32 = .error .noBusRow := by decide

/-- R56: the reserved command words. -/
theorem test_decode_illegal_words :
    decodeCmd 0#32 = .error .reservedOp ∧ decodeCmd 0x00000414#32 = .error .reservedOp ∧
      decodeCmd 0x00000F00#32 = .error .reservedOp ∧ decodeCmd 0x00001114#32 = .error .reservedBits ∧
      decodeCmd 0x80000214#32 = .error .reservedBits := by decide

/-! ### Functions, against spec/95_test_vectors.md -/

/-- `IN` of section 1, S2. -/
def inBlock : Block :=
  ⟨⟨0x61707865#32, 0x3320646e#32, 0x79622d32#32, 0x6b206574#32⟩,
   ⟨0x03020100#32, 0x07060504#32, 0x0b0a0908#32, 0x0f0e0d0c#32⟩,
   ⟨0x13121110#32, 0x17161514#32, 0x1b1a1918#32, 0x1f1e1d1c#32⟩,
   ⟨0x00000001#32, 0x09000000#32, 0x4a000000#32, 0x00000000#32⟩⟩

/-- Section 2.2. -/
theorem test_rotl32_table :
    rotl32 0x12345678#32 12#5 = 0x45678123#32 ∧ rotl32 0x12345678#32 7#5 = 0x1A2B3C09#32 ∧
      rotl32 0x12345678#32 31#5 = 0x091A2B3C#32 ∧ rotl32 0x12345678#32 0#5 = 0x12345678#32 := by decide +kernel

/-- S1, the quarter round reference vector. -/
theorem test_qr_reference_vector :
    qr 0x11111111#32 0x01020304#32 0x9b8d6f43#32 0x01234567#32 =
      ⟨0xea2a92f4#32, 0xcb1cf8ce#32, 0x4581472e#32, 0x5881c4bb#32⟩ := by decide +kernel

/-- Section 2.3, second row: every addition wraps; and QRINV takes it back. -/
theorem test_qr_all_ones :
    qr 0xFFFFFFFF#32 0xFFFFFFFF#32 0xFFFFFFFF#32 0xFFFFFFFF#32 =
        ⟨0xF0000FFD#32, 0x88790878#32, 0x0110FDEF#32, 0x010FFDF0#32⟩ ∧
      qrinv 0xF0000FFD#32 0x88790878#32 0x0110FDEF#32 0x010FFDF0#32 =
        ⟨0xFFFFFFFF#32, 0xFFFFFFFF#32, 0xFFFFFFFF#32, 0xFFFFFFFF#32⟩ := by decide +kernel

/-- Section 2.4: what `X[0]` holds after the first round step. -/
theorem test_rowround_stores_diagonal_order :
    rowround inBlock false =
      ⟨⟨0xabbaa25c#32, 0x1efa51ea#32, 0x7354fbdf#32, 0x83d2dc69#32⟩,
       ⟨0x1c7e64f6#32, 0xb12fb628#32, 0xf05b6976#32, 0x3a465196#32⟩,
       ⟨0xbf8a9ac9#32, 0xe444df3b#32, 0x6b3ca454#32, 0x08eb14b1#32⟩,
       ⟨0x52a647f1#32, 0xdec62ed2#32, 0x8862cc77#32, 0x6e35b345#32⟩⟩ := by decide +kernel

/-- Section 2.4: DOUBLEROUND(IN), by both paths. -/
theorem test_doubleround :
    doubleround inBlock =
        ⟨⟨0xcd52e917#32, 0x85ab03b4#32, 0xb3457395#32, 0xf96de7dd#32⟩,
         ⟨0xc4b7cd22#32, 0x5c2e187a#32, 0xc95eb461#32, 0x316c801a#32⟩,
         ⟨0x7bf7d740#32, 0x7eddd644#32, 0xf1a1bdf5#32, 0x761246ca#32⟩,
         ⟨0x6b0d58a3#32, 0x6798471a#32, 0xd737f167#32, 0xf173888d#32⟩⟩ ∧
      rowround (rowround inBlock false) true = doubleround inBlock := by decide +kernel

/-- S2: P20. -/
theorem test_permute_20 :
    permute inBlock 20 =
      ⟨⟨0x837778ab#32, 0xe238d763#32, 0xa67ae21e#32, 0x5950bb2f#32⟩,
       ⟨0xc4f2d0c7#32, 0xfc62bb2f#32, 0x8fa018fc#32, 0x3f5ec7b7#32⟩,
       ⟨0x335271c2#32, 0xf29489f3#32, 0xeabda8fc#32, 0x82e46ebd#32⟩,
       ⟨0xd19c12b4#32, 0xb04e16de#32, 0x9e83d0cb#32, 0x4e3c50a2#32⟩⟩ := by decide +kernel

/-- S3: A20. -/
theorem test_permute_and_add_20 :
    addWords (permute inBlock 20) inBlock =
      ⟨⟨0xe4e7f110#32, 0x15593bd1#32, 0x1fdd0f50#32, 0xc47120a3#32⟩,
       ⟨0xc7f4d1c7#32, 0x0368c033#32, 0x9aaa2204#32, 0x4e6cd4c3#32⟩,
       ⟨0x466482d2#32, 0x09aa9f07#32, 0x05d7c214#32, 0xa2028bd9#32⟩,
       ⟨0xd19c12b5#32, 0xb94e16de#32, 0xe883d0cb#32, 0x4e3c50a2#32⟩⟩ := by decide +kernel

/-- Section 2.7: lane 1 of BATCH_PERMUTE 20 on IN. -/
theorem test_batch_lane1 :
    (batch inBlock 20).q1 =
      ⟨⟨0x16130fa5#32, 0x1b9f72cb#32, 0x374a9fc6#32, 0x6b98c676#32⟩,
       ⟨0x91c1559d#32, 0xf61730a6#32, 0x943bb69d#32, 0xd99120fe#32⟩,
       ⟨0x7fe610d7#32, 0x6faee441#32, 0x814d08a7#32, 0x7d31204c#32⟩,
       ⟨0x27faf25a#32, 0xf7265586#32, 0xedca065b#32, 0x3baf864c#32⟩⟩ := by decide +kernel

/-- Section 2.7: the counter wraps without a carry into word 13. -/
theorem test_promote_wraps :
    (promote (inBlock.setWord 12 0xFFFFFFFE#32)).map (fun b => b.q3.q0) =
        ⟨0xFFFFFFFE#32, 0xFFFFFFFF#32, 0x00000000#32, 0x00000001#32⟩ ∧
      (promote (inBlock.setWord 12 0xFFFFFFFE#32)).map (fun b => b.q3.q1) =
        ⟨0x09000000#32, 0x09000000#32, 0x09000000#32, 0x09000000#32⟩ := by decide +kernel

/-- Section 2.6: bytes 0 to 3 and 55 of encode(IN). -/
theorem test_encodeBlock :
    encodeBlock inBlock 0 = 0x65#8 ∧ encodeBlock inBlock 1 = 0x78#8 ∧ encodeBlock inBlock 3 = 0x61#8 ∧
      encodeBlock inBlock 55 = 0x09#8 := by decide +kernel

/-- R152: 21 cycles for PERMUTE_ONLY 20 with 4 units; 81 and 21 for BATCH_PERMUTE 20 with 4 and 16. -/
theorem test_referenceLatency :
    referenceLatency .four .permuteOnly 20#8 = 21 ∧ referenceLatency .four .batchPermute 20#8 = 81 ∧
      referenceLatency .sixteen .batchPermute 20#8 = 21 := by decide

/-! ### Instructions, one step each on small states -/

/-- `IN` in lane 0, idle. -/
def loaded : State := { State.reset with x := { State.reset.x with q0 := inBlock } }

/-- PERMUTE_AND_ADD 2 running on `IN`. -/
def running : State := loaded.accept .permuteAndAdd 2#8

/-- PERMUTE_AND_ADD with no round left. -/
def lastStep : State := loaded.accept .permuteAndAdd 0#8

/-- After a faulting command (R124). -/
def faulted : State := loaded.raiseFault errOddRounds

/-- R36's example: a byte write into a word keeps the other bytes. -/
theorem test_wrBlock_narrow :
    (nextState (exec (.wrBlock 0#2 0x01#8 0x0000AA00#32) loaded)).map (fun t => (t.word 0 0, t.reply)) =
      some (0x6170AA65#32, .written) := by decide +kernel

/-- Section 2.8: a misaligned write is refused at once, also while running. -/
theorem test_wrBlock_misaligned_refused :
    nextState (exec (.wrBlock 1#2 0x01#8 0x1234#32) running) =
      some { running with port := none, reply := .refused, refusals := 1 } := by decide +kernel

/-- Section 2.6: RD8 0x003 of 0x61707865 is 0x61, on byte lane 3; nothing changes. -/
theorem test_rdBlock_byte_lane :
    nextState (exec (.rdBlock 0#2 0x03#8) loaded) = some { loaded with reply := .read 0x61000000#32 } := by
  decide +kernel

/-- Section 2.8: a window read while running is held. -/
theorem test_rdBlock_held :
    nextState (exec (.rdBlock 2#2 0x00#8) running) =
      some { running with port := some ⟨false, 2#2, 0#9, 0#32⟩, reply := .noAck } := by decide +kernel

/-- R105: the status word while running, and after `PERMUTE_ONLY 3`. -/
theorem test_rdStatus_values :
    (nextState (exec .rdStatus running)).map (fun t => t.reply) = some (.read 0x00000001#32) ∧
      (nextState (exec .rdStatus faulted)).map (fun t => t.reply) = some (.read 0x00000014#32) := by decide +kernel

/-- Section 2.8: `0x00000015` has OP 0 and is odd; code 2 wins; DONE and X keep their values. -/
theorem test_wrCmd_priority :
    nextState (exec (.wrCmd 0x00000015#32) loaded) =
      some { loaded with seq := .fault, errcode := 2#4, reply := .written } := by decide +kernel

/-- Section 2.8: in FAULT a CMD write is refused before decode and the first code stays. -/
theorem test_wrCmd_refused_in_fault :
    nextState (exec (.wrCmd 0#32) faulted) = some { faulted with reply := .refused, refusals := 1 } := by decide +kernel

/-- R94's acceptance. -/
theorem test_permuteOnly_accepted :
    nextState (exec (.permuteOnly 20#8) loaded) =
      some { loaded with p := inBlock, rc := 20#8, seq := .run, reply := .written } := by decide +kernel

/-- Section 2.8: `PERMUTE_ONLY 21` faults with code 1 and changes nothing. -/
theorem test_permuteOnly_odd_faults :
    nextState (exec (.permuteOnly 21#8) loaded) =
      some { loaded with seq := .fault, errcode := 1#4, reply := .written } := by decide +kernel

/-- R95's acceptance: OPADD is 1. -/
theorem test_permuteAndAdd_accepted :
    nextState (exec (.permuteAndAdd 20#8) loaded) =
      some { loaded with p := inBlock, rc := 20#8, opadd := true, seq := .run, reply := .written } := by decide +kernel

/-- R95's completion at 0 rounds, section 2.5: every word doubled, here words 0 and 12, with the wrap of word 0. -/
theorem test_permuteAndAdd_completion_doubles :
    (nextState (step lastStep)).map (fun t => (t.word 0 0, t.word 0 12, t.status)) =
      some (0xc2e0f0ca#32, 2#32, 2#32) := by decide +kernel

/-- R112's acceptance: lane 3 is promoted with counter 4, OPBATCH is 1. -/
theorem test_batchPermute_promotes :
    (nextState (exec (.batchPermute 20#8) loaded)).map (fun t => (t.word 3 12, t.word 3 0, t.opbatch)) =
      some (4#32, 0x61707865#32, true) := by decide +kernel

/-- Section 2.8: BATCH_PERMUTE 255 is odd; no promotion. -/
theorem test_batchPermute_odd_no_promotion :
    (nextState (exec (.batchPermute 255#8) loaded)).map (fun t => (t.status, t.word 3 0)) =
      some (0x14#32, 0#32) := by decide +kernel

/-! ### The step -/

/-- The first step after reset runs a table word's instruction; here PERMUTE_ONLY 0 is accepted. -/
theorem test_step_runs_table_word :
    (nextState (step (State.reset.withFetchWord 32 0x100))).map (fun t => (t.status, t.host)) = some (1#32, []) := by
  decide +kernel

/-- One round step of a running command (R90). -/
theorem test_step_round :
    (nextState (step running)).map (fun t => (t.rc, t.ph, t.word 0 4)) = some (1#8, true, 0x1c7e64f6#32) := by
  decide +kernel

/-- Reset drops a held access and a running command (R141), and the access cut off marks the run (U15); with nothing on
the port there is no mark. -/
theorem test_step_reset :
    nextState (step { running with port := some (encode (.rdBlock 2#2 0#8)), host := [.reset] }) =
        some { State.reset with refusals := 1 } ∧
      nextState (step { running with host := [.reset, .wait] }) = some { State.reset with host := [.wait] } := by
  decide +kernel

/-- WAIT_DONE reads BUSY, lets the sequencer move, and is read again (R63). -/
theorem test_step_waitDone_polls :
    (nextState (step { running with host := [.waitDone] })).map (fun t => (t.reply, t.host)) =
      some (.read 1#32, [.wait, .waitDone]) := by decide +kernel

/-! ### Witnesses: states and operands that meet the hypotheses of the statements -/

theorem test_witness_RotateLeftRule : (31#5 : BitVec 5) ≠ 0#5 ∧ (1#5 : BitVec 5) ≠ 0#5 ∧ 31 < 32 := by decide

theorem test_witness_XorIsBitwise : 31 < 32 := by decide

theorem test_witness_even_rounds : 0 % 2 = 0 ∧ 20 % 2 = 0 ∧ (254#8).toNat % 2 = 0 := by decide

theorem test_witness_PhaseInAnyOrder : List.Perm [3, 1, 0, 2] ([0, 1, 2, 3] : List (Fin 4)) := by decide

theorem test_witness_PromoteAddsLaneToCounter : (13 : Fin 16) ≠ 12 ∧ (0 : Fin 16) ≠ 12 := by decide

/-- Clauses 6 and 7 of DecodeEncodeAllInstructions, and EncodeDecodeAccess. -/
theorem test_witness_DecodeEncode :
    decodeCmd 0x00000014#32 = .error .reservedOp ∧ decodeCmd 0x000001FE#32 = .ok (.permuteOnly 254#8) ∧
      decodeAccess ⟨true, 2#2, 0xFC#9, 7#32⟩ = .ok (.wrBlock 2#2 0xFC#8 7#32) ∧
      decodeAccess ⟨true, 2#2, 0x100#9, 0x200#32⟩ = .ok (.permuteAndAdd 0#8) := by decide +kernel

theorem test_witness_CommandWordsPartition :
    Op.batchPermute.commandWord 255#8 = 0x3FF#32 ∧ (0x3FF#32).toNat / 2 ^ 12 = 0 ∧
      Op.permuteOnly.commandWord 0#8 = 0x100#32 := by decide +kernel

theorem test_witness_DecodeTableAgreesWithChecks :
    (⟨true, 0#2, 0x0FF#9, 0#32⟩ : Access).we = true ∧ (⟨false, 2#2, 0x104#9, 0#32⟩ : Access).we = false := by decide

theorem test_witness_StepRunsDecodedInstruction :
    decodeAccess ⟨false, 2#2, 0x104#9, 0#32⟩ = .ok .rdStatus ∧
      ({ loaded with host := [.access ⟨false, 2#2, 0x104#9, 0#32⟩] } : State).port = none ∧
      ¬ ({ loaded with port := some ⟨false, 2#2, 0x0#9, 0#32⟩ } : State).resetNext ∧ loaded.seq ≠ .run ∧
      decodeAccess ⟨false, 2#2, 0x0#9, 0#32⟩ = .ok (.rdBlock 2#2 0#8) := by decide +kernel

theorem test_witness_TableWordRunsNext :
    decodeTableWord 16 0x9FF = none ∧ decodeTableWord 16 0x0FF = some (.rdBlock 0#2 0xFF#8) ∧
      decodeTableWord 32 0x3FF = some (.batchPermute 255#8) := by decide +kernel

theorem test_witness_ResetLeavesResetTable : ({ faulted with host := [.reset, .wait] } : State).resetNext := by decide

/-- A running state, with well-formed block accesses at both ends of the windows. -/
theorem test_witness_AccessesHeldWhileRunning :
    running.seq = .run ∧ blockAccessOk 0#2 0xFF#8 = true ∧ blockAccessOk 2#2 0x00#8 = true := by decide +kernel

/-- The three clauses: a held access while RUN, one left on the port after completion, one cut off by reset. -/
theorem test_witness_HeldAccessServedAfterCompletion :
    ({ running with port := some (encode (.wrCmd 0#32)), host := [.reset] } : State).resetNext ∧
    ¬ ({ running with port := some (encode (.wrCmd 0#32)) } : State).resetNext ∧ running.seq = .run ∧
      ¬ ({ loaded with port := some (encode (.wrCmd 0#32)) } : State).resetNext ∧ loaded.seq ≠ .run := by
  decide +kernel

/-- Each listed cause, at a boundary. -/
theorem test_witness_RefusedExactlyInTheListedCases :
    refusedCase ⟨false, 3#2, 0#9, 0#32⟩ .idle ∧ refusedCase ⟨true, 1#2, 1#9, 0#32⟩ .idle ∧
      refusedCase ⟨false, 2#2, 0x108#9, 0#32⟩ .run ∧ refusedCase ⟨false, 2#2, 0x100#9, 0#32⟩ .idle ∧
      refusedCase ⟨true, 2#2, 0x104#9, 0#32⟩ .idle ∧ refusedCase ⟨true, 1#2, 0x102#9, 0#32⟩ .idle ∧
      refusedCase ⟨true, 2#2, 0x100#9, 0#32⟩ .fault := by
  refine ⟨?_, ?_, ?_, ?_, ?_, ?_, ?_⟩ <;> decide +kernel

/-- Accesses next to the listed causes that are not refused. -/
theorem test_witness_not_refused :
    ¬ refusedCase ⟨true, 2#2, 0x100#9, 0#32⟩ .run ∧ ¬ refusedCase ⟨false, 2#2, 0x104#9, 0#32⟩ .fault ∧
      ¬ refusedCase ⟨true, 0#2, 0x0FF#9, 0#32⟩ .fault := by
  refine ⟨?_, ?_, ?_⟩ <;> decide +kernel

/-- The four cases of SequencerTransitions occur: acceptance, completion, fault entry, reset; a CMD write is served from
the host's events and from the port. -/
theorem test_witness_SequencerTransitions :
    (loaded.presenting (encode (.permuteOnly 2#8))).serves (encode (.permuteOnly 2#8)) ∧
      ({ loaded with port := some (cmdAccess 0#32) } : State).serves (cmdAccess 0#32) ∧
      (nextState (step { loaded with port := some (cmdAccess 0#32) })).map (fun t => t.errcode) = some 2#4 ∧
    (nextState (step (loaded.presenting (encode (.permuteOnly 2#8))))).map (fun t => t.seq) = some .run ∧
      (nextState (step lastStep)).map (fun t => t.seq) = some .idle ∧
      (nextState (step (loaded.presenting (encode (.permuteOnly 3#8))))).map (fun t => t.seq) = some .fault ∧
      (nextState (step { faulted with host := [.reset] })).map (fun t => t.seq) = some .idle := by decide +kernel

theorem test_witness_FaultIsSticky :
    faulted.seq = .fault ∧ ¬ faulted.resetNext ∧ (nextState (step faulted)).map (fun t => t.seq) = some .fault := by
  decide +kernel

theorem test_witness_HiddenCopyAndStatusRegistersWritten :
    ¬ (loaded.presenting (encode (.permuteOnly 2#8))).resetNext ∧
      (nextState (step (loaded.presenting (encode (.permuteOnly 2#8))))).map (fun t => t.p) = some inBlock := by
  decide +kernel

/-- The quiet clause of HiddenCopyAndStatusRegistersWritten: with no event and with a `wait`, in IDLE and in FAULT. -/
theorem test_witness_quiet_turn :
    (∀ a, ¬ loaded.serves a) ∧ (∀ a, ¬ ({ faulted with host := [.wait] } : State).serves a) ∧
      nextState (step { faulted with host := [.wait] }) = some faulted := by
  refine ⟨?_, ?_, by decide +kernel⟩ <;> rintro a (⟨h, -⟩ | ⟨-, h | ⟨h, -⟩⟩) <;> cases h

/-- Two running states that differ in their data. -/
theorem test_witness_ControlIndependentOfData :
    running.control = (State.reset.accept .permuteAndAdd 2#8).control ∧
      running.x ≠ (State.reset.accept .permuteAndAdd 2#8).x ∧ (nextState (step running)).isSome = true ∧
      (nextState (step (State.reset.accept .permuteAndAdd 2#8))).isSome = true := by decide +kernel

/-- WrBlockWritesNamedBytes, RdBlockReadsNamedBytes, ReadAfterWrite: the last byte, the last word. -/
theorem test_witness_block_accesses :
    blockAccessOk 0#2 0xFF#8 = true ∧ blockAccessOk 2#2 0xFC#8 = true ∧ blockAccessOk 1#2 0xFE#8 = true ∧
      loaded.seq ≠ .run ∧ faulted.seq ≠ .run := by decide +kernel

theorem test_witness_WrBlockFrame :
    (nextState (exec (.wrBlock 0#2 0x00#8 5#32) loaded)).map (fun t => (t.windowByte 0x00#8, t.windowByte 0x01#8)) =
        some (5#8, 0x78#8) ∧
      blockAccessOk 3#2 0#8 = false ∧ running.seq = .run := by decide +kernel

theorem test_witness_IllFormedBlockAccessRefused : (1#8).toNat % sizeBytes 1#2 ≠ 0 ∧ (3#2 : BitVec 2) = 3#2 := by
  decide

theorem test_witness_ReadsChangeNoState :
    (nextState (exec .rdStatus running)).isSome = true ∧
      (nextState (exec (.rdBlock 2#2 0#8) loaded)).isSome = true := by decide +kernel

/-- A state of the control invariant for each of the seven values of R57 (also StepKeepsControlInvariant). -/
theorem test_witness_StatusValues :
    (loaded.Inv ∧ loaded.status = 0x00#32) ∧ (running.Inv ∧ running.status = 0x01#32) ∧
      (({ loaded with done := true } : State).Inv ∧ ({ loaded with done := true } : State).status = 0x02#32) ∧
      (faulted.Inv ∧ faulted.status = 0x14#32) ∧
      (({ faulted with done := true } : State).Inv ∧ ({ faulted with done := true } : State).status = 0x16#32) ∧
      (({ faulted with errcode := 2 } : State).Inv ∧ ({ faulted with errcode := 2 } : State).status = 0x24#32) ∧
      (({ faulted with errcode := 2, done := true } : State).Inv ∧
        ({ faulted with errcode := 2, done := true } : State).status = 0x26#32) := by
  refine ⟨⟨⟨?_, ?_, trivial⟩, ?_⟩, ⟨⟨?_, ?_, trivial⟩, ?_⟩, ⟨⟨?_, ?_, trivial⟩, ?_⟩, ⟨⟨?_, ?_, trivial⟩, ?_⟩,
    ⟨⟨?_, ?_, trivial⟩, ?_⟩, ⟨⟨?_, ?_, trivial⟩, ?_⟩, ⟨⟨?_, ?_, trivial⟩, ?_⟩⟩ <;> decide +kernel

/-- The three sequencer states of WrCmdDecodesItsWord, CommandsAccepted, OddRoundCountsFault, AccessesInFault. -/
theorem test_witness_command_writes :
    loaded.seq = .idle ∧ running.seq = .run ∧ faulted.seq = .fault ∧ (0#8).toNat % 2 = 0 ∧ (255#8).toNat % 2 = 1 := by
  decide +kernel

theorem test_witness_AccessesInFault :
    (nextState (exec (.wrBlock 2#2 0#8 5#32) { faulted with seq := .idle })).isSome = true ∧
      (nextState (exec (.rdBlock 2#2 0#8) { faulted with seq := .idle })).isSome = true := by decide +kernel

/-- CommandWriteFrame: an accepted batch, a fault, a held write. -/
theorem test_witness_CommandWriteFrame :
    (nextState (exec (.batchPermute 2#8) loaded)).map (fun t => (t.seq, t.opbatch)) = some (.run, true) ∧
      (nextState (exec (.wrCmd 0#32) loaded)).map (fun t => t.seq) = some .fault ∧
      (nextState (exec (.permuteOnly 2#8) running)).map (fun t => t.p) = some inBlock := by decide +kernel

/-- RoundStepRule: a wait, a held access, nothing at all. -/
theorem test_witness_RoundStepRule :
    running.seq = .run ∧ running.rc ≠ 0#8 ∧ running.host = [] ∧
      ({ running with port := some (encode (.rdBlock 2#2 0#8)), host := [.waitDone] } : State).port ≠ none ∧
      ¬ ({ running with port := some (encode (.rdBlock 2#2 0#8)), host := [.waitDone] } : State).resetNext := by
  decide +kernel

theorem test_witness_CompletionStepRule : lastStep.seq = .run ∧ lastStep.rc = 0#8 ∧ lastStep.host = [] := by
  decide +kernel

/-- RunCompletesAfterItsRounds: RC 2, and the steps 0, 2 and 3. -/
theorem test_witness_RunCompletesAfterItsRounds :
    running.seq = .run ∧ running.host = [] ∧ (2 : Nat) ≤ running.rc.toNat ∧ (stepN 3 running).isSome = true := by
  decide +kernel

/-- PermuteOnlyResult, PermuteAndAddResult, BatchPermuteResult at the smallest even count. -/
theorem test_witness_command_results :
    (loaded.presenting (encode (.permuteOnly 0#8))).seq = .idle ∧
      (loaded.presenting (encode (.permuteAndAdd 0#8))).port = none ∧
      (loaded.presenting (encode (.batchPermute 0#8))).host = [.access (encode (.batchPermute 0#8))] ∧
      (0#8).toNat % 2 = 0 := by decide +kernel

/-- A batch and the last word of lane 3, a held read at the smallest count; here lane 3's counter word after promotion. -/
theorem test_witness_ReadAfterCommandReturnsResult :
    ({ loaded with host := [commandEvent .batchPermute 0#8, rd32 (wordOffset 3 15)] } : State).seq = .idle ∧
      loaded.port = none ∧
      (stepN 3 { loaded with host := [commandEvent .batchPermute 0#8, rd32 (wordOffset 3 12)] }).map
        (fun t => (t.seq, t.port, t.reply)) = some (.idle, some ⟨false, 2#2, 0xF0#9, 0#32⟩, .noAck) ∧
      (stepN 4 { loaded with host := [commandEvent .batchPermute 0#8, rd32 (wordOffset 3 12)] }).map
        (fun t => t.reply) = some (.read 4#32) := by decide +kernel

theorem test_witness_WaitDoneEnds :
    ({ running with host := [.waitDone] } : State).port = none ∧ running.seq = .run ∧
      ({ loaded with host := [.waitDone] } : State).port = none := by decide +kernel

theorem test_witness_LoadWordsFillsLane :
    ({ State.reset with host := loadWords 3 inBlock } : State).seq ≠ .run ∧ (loadWords 3 inBlock).length = 16 := by
  decide +kernel

/-- StepKeepsCommandProgress: a state in mid-command after one round. -/
theorem test_witness_StepKeepsCommandProgress : running.roundStep.CommandProgress := by
  intro _
  exact ⟨1, by decide +kernel, by decide +kernel, by decide +kernel, fun _ => rfl, fun h => nomatch h⟩

theorem test_witness_AcceptanceStartsCommandProgress :
    loaded.seq = .idle ∧ (nextState (exec (Op.permuteAndAdd.instr 20#8) loaded)).isSome = true := by decide +kernel

end Sys2Proof.Tests
end

/-! ### Control is independent of the data in X and P (O34)

The control part of a step's result is computed from the control part of its state: each operation below commutes with
`State.control`. The first layer says what `control` does to each field and each update; then the turn, the
instructions and the step follow. -/

namespace Sys2Proof.Machine

section ControlFields

variable (s : State)

@[simp] theorem control_rc : s.control.rc = s.rc := rfl
@[simp] theorem control_ph : s.control.ph = s.ph := rfl
@[simp] theorem control_seq : s.control.seq = s.seq := rfl

/-- Blanking twice is blanking once. -/
@[simp] theorem control_control : s.control.control = s.control := by
  cases s with
  | mk x p rc ph opadd opbatch seq done errcode port reply host refusals => cases reply <;> rfl

end ControlFields

section ControlUpdates

variable (s : State)

@[simp] theorem control_refuse : s.refuse.control = s.control.refuse := rfl

@[simp] theorem control_raiseFault (code : BitVec 4) : (s.raiseFault code).control = s.control.raiseFault code := rfl

@[simp] theorem control_accept (op : Op) (r : BitVec 8) :
    (s.accept op r).control =
      { s.control with
        rc := r, ph := false, opadd := op == .permuteAndAdd, opbatch := op == .batchPermute, done := false,
        seq := .run } := rfl

@[simp] theorem control_writeWindow (a : BitVec 9) (n : Nat) (v : Word) :
    (s.writeWindow a n v).control = s.control := rfl

@[simp] theorem control_roundStep : s.roundStep.control = { s.control with rc := s.rc - 1#8, ph := !s.ph } := rfl

@[simp] theorem control_completionStep : s.completionStep.control = { s.control with seq := .idle, done := true } := rfl

@[simp] theorem resetStep_control : s.control.resetStep = s.resetStep := rfl

theorem control_sequencerTurn : s.sequencerTurn.control = { s.sequencer.control with reply := .noAck } := rfl

end ControlUpdates

/-! ### The sequencer and the turn -/

/-- The sequencer's move is chosen by SEQ and RC and changes control from control only (R90, R93). -/
theorem sequencer_control (s : State) : s.control.sequencer.control = s.sequencer.control := by
  unfold State.sequencer
  cases hs : s.seq with
  | idle => simp [hs]
  | fault => simp [hs]
  | run => by_cases hr : s.rc = 0#8 <;> simp [hs, hr]

theorem sequencerTurn_control (s : State) : s.control.sequencerTurn.control = s.sequencerTurn.control := by
  simp only [control_sequencerTurn, sequencer_control]

/-- A turn with the data of its state blanked. -/
def Turn.control : Turn → Turn
  | .reset s => .reset s.control
  | .sequencer s => .sequencer s.control
  | .serve a s => .serve a s.control

/-- Whose move it is, and which access is served, is control (R10, R38, R39). -/
theorem turn_control (s : State) : s.control.turn = s.turn.control := by
  rcases s with ⟨x, p, rc, ph, opadd, opbatch, seq, dn, errcode, port, reply, host, refusals⟩
  rcases host with _ | ⟨e, rest⟩
  · cases port with
    | none => rfl
    | some a => cases seq <;> rfl
  · cases port with
    | none => cases e <;> rfl
    | some a => cases e <;> cases seq <;> rfl

/-! ### The answers on the port and the instructions -/

/-- The control part of an outcome's next state. -/
def nextControl (o : Host.Outcome State Fault Refusal) : Option State := (nextState o).map State.control

@[simp] theorem nextControl_next (t : State) : nextControl (.next t) = some t.control := rfl

section Answers

variable (s : State) (a : Access)

@[simp] theorem nextControl_answerRead_refused :
    nextControl (s.answerRead a .refused) = some s.control.refuse := rfl

@[simp] theorem nextControl_answerRead_held : nextControl (s.answerRead a .held) = some (s.control.hold a) := rfl

/-- The value read is blanked: `rdata` is data, not control. -/
@[simp] theorem nextControl_answerRead_value (v : Word) :
    nextControl (s.answerRead a (.value v)) = some { s.control with port := none, reply := .read 0#32 } := rfl

@[simp] theorem nextControl_answerWrite_refused :
    nextControl (s.answerWrite a .refused) = some s.control.refuse := rfl

@[simp] theorem nextControl_answerWrite_held : nextControl (s.answerWrite a .held) = some (s.control.hold a) := rfl

@[simp] theorem nextControl_answerWrite_performed (t : State) :
    nextControl (s.answerWrite a (.performed t)) = some { t.control with port := none, reply := .written } := rfl

end Answers

/-- An update whose effect on control depends on control only. -/
def ControlOnly (f : State → State) : Prop := ∀ s, (f s.control).control = (f s).control

/-- Fault entry and acceptance are such updates (R104, R124). -/
theorem controlOnly_of_faults_or_accepts {f : State → State}
    (h : (∃ code, ∀ s, f s = s.raiseFault code) ∨ ∃ op r, ∀ s, f s = s.accept op r) : ControlOnly f := by
  intro s
  rcases h with ⟨code, hf⟩ | ⟨op, r, hf⟩ <;> simp [hf]

/-- The operands alone decide between the fault and acceptance (R120). -/
theorem controlOnly_startCommand (op : Op) (r : BitVec 8) : ControlOnly fun t => t.startCommand op r := by
  apply controlOnly_of_faults_or_accepts
  by_cases h : r.getLsbD 0
  · exact .inl ⟨errOddRounds, fun s => if_pos h⟩
  · exact .inr ⟨op, r, fun s => if_neg h⟩

/-- The command word alone decides between the two faults and acceptance (R103, R123). -/
theorem controlOnly_writeCmd (v : Word) : ControlOnly fun t => t.writeCmd v := by
  apply controlOnly_of_faults_or_accepts
  unfold State.writeCmd
  by_cases hrsv : cmdRsv v = 0#20
  · cases hop : opOfField (cmdOp v) with
    | none => exact .inl ⟨errIllegalCmd, by simp [hrsv]⟩
    | some op =>
      cases hodd : v.getLsbD 0 with
      | true => exact .inl ⟨errOddRounds, by simp [hrsv]⟩
      | false => exact .inr ⟨op, cmdRounds v, by simp [hrsv]⟩
  · exact .inl ⟨errIllegalCmd, by simp [hrsv]⟩

/-- A command write is held, refused or performed by SEQ alone (R34 branch 5). -/
theorem nextControl_cmdWrite {f : State → State} (hf : ControlOnly f) (s : State) (a : Access) :
    nextControl (s.control.answerWrite a (s.control.cmdWrite f)) = nextControl (s.answerWrite a (s.cmdWrite f)) := by
  unfold State.cmdWrite
  cases hs : s.seq <;> simp [hs, hf s]

/-- The control part of an instruction's result depends on control only. -/
theorem nextControl_exec (i : Instr) (s : State) : nextControl (exec i s.control) = nextControl (exec i s) := by
  cases i with
  | wrCmd word =>
    simp only [exec, execWrCmd, memWrite_cmd]
    exact nextControl_cmdWrite (controlOnly_writeCmd word) s _
  | rdStatus => simp [exec, execRdStatus, memRead_status]
  | wrBlock size addr wdata =>
    simp only [exec, execWrBlock, memWrite_block, control_seq]
    cases blockAccessOk size addr <;> by_cases hs : s.seq = .run <;> simp [hs]
  | rdBlock size addr =>
    simp only [exec, execRdBlock, memRead_block, control_seq]
    cases blockAccessOk size addr <;> by_cases hs : s.seq = .run <;> simp [hs]
  | permuteOnly rounds => exact nextControl_cmdWrite (controlOnly_startCommand .permuteOnly rounds) s _
  | permuteAndAdd rounds => exact nextControl_cmdWrite (controlOnly_startCommand .permuteAndAdd rounds) s _
  | batchPermute rounds => exact nextControl_cmdWrite (controlOnly_startCommand .batchPermute rounds) s _

theorem nextControl_serve (a : Access) (s : State) : nextControl (serve a s.control) = nextControl (serve a s) := by
  unfold serve
  cases decodeAccess a with
  | ok i => exact nextControl_exec i s
  | error e => simp

/-- The control part of a step's result depends on control only (R152). -/
theorem nextControl_step (s : State) : nextControl (step s.control) = nextControl (step s) := by
  unfold step
  rw [turn_control]
  cases s.turn with
  | reset u => simp [Turn.control]
  | sequencer u => simp [Turn.control, sequencerTurn_control]
  | serve a u => exact nextControl_serve a u

/-- Settles O34: the control after a step is computed from the control before it, which the two states share. -/
theorem controlIndependentOfData : Obligations.ControlIndependentOfData := by
  intro s s' t t' hcontrol ht ht'
  have hsame : nextControl (step s) = nextControl (step s') := by
    rw [← nextControl_step s, hcontrol, nextControl_step s']
  rw [ht, ht'] at hsame
  exact Option.some.inj hsame

end Sys2Proof.Machine

/-! ### The fields of a descriptor and of a command word, and the decoder inverted

Everything `decodeAccess` can answer, with the access it must have been given (R50 to R56). -/

namespace Sys2Proof

section Descriptors

variable (a : Access)

theorem descriptor_we : a.descriptor.getLsbD 11 = a.we := by
  have h : a.descriptor.getLsbD 11 = (BitVec.ofBool a.we ++ a.size).getLsbD 2 := BitVec.getLsbD_append
  rw [h, BitVec.getLsbD_append]
  simp

@[simp] theorem descriptor_size : a.descriptor.extractLsb' 9 2 = a.size :=
  (BitVec.extractLsb'_append_eq_of_le (by omega)).trans BitVec.extractLsb'_append_eq_right

@[simp] theorem descriptor_addr : a.descriptor.extractLsb' 0 9 = a.addr := BitVec.extractLsb'_append_eq_right

/-- An access is its descriptor and its write data (R51). -/
@[simp] theorem ofDescriptor_descriptor : Access.ofDescriptor a.descriptor a.wdata = a := by
  rw [Access.ofDescriptor, descriptor_we, descriptor_size, descriptor_addr]

/-- An access with the descriptor of WR_CMD is the CMD write of its write data (R52, R60). -/
theorem eq_cmdAccess_of_descriptor (h : a.descriptor = 0xD00#12) : a = cmdAccess a.wdata := by
  rw [cmdAccess, ← h, ofDescriptor_descriptor]

/-- WR_CMD's row tests every bit (R52). -/
theorem rowWrCmd_fits_iff (d : BitVec 12) : rowWrCmd.fits d = true ↔ d = 0xD00#12 := by
  have hmask : d &&& rowWrCmd.mask = d := BitVec.and_allOnes
  rw [Row.fits, hmask, beq_iff_eq]
  rfl

/-- RD_STATUS's row tests every bit (R52). -/
theorem rowRdStatus_fits_iff (d : BitVec 12) : rowRdStatus.fits d = true ↔ d = 0x504#12 := by
  have hmask : d &&& rowRdStatus.mask = d := BitVec.and_allOnes
  rw [Row.fits, hmask, beq_iff_eq]
  rfl

/-- A block access has `addr[8] = 0`, so its descriptor is none with that bit set (R52). -/
theorem descriptor_ne_of_block {addr : BitVec 8} (ha : a.addr = 0#1 ++ addr) {d : BitVec 12}
    (hd : d.getLsbD 8 = true) : a.descriptor ≠ d := by
  rintro rfl
  have h : a.descriptor.getLsbD 8 = a.addr.getLsbD 8 := BitVec.getLsbD_append
  rw [hd, ha, BitVec.getLsbD_append] at h
  cases h

/-- A block access's address field is the eight bits below `addr[8]` (R51). -/
theorem descriptor_blockAddr {addr : BitVec 8} (ha : a.addr = 0#1 ++ addr) : a.descriptor.extractLsb' 0 8 = addr := by
  have h : a.descriptor.extractLsb' 0 8 = a.addr.extractLsb' 0 8 := BitVec.extractLsb'_append_eq_of_add_le (by omega)
  rw [h, ha]
  exact BitVec.extractLsb'_append_eq_right

/-- A descriptor that fits WR_BLOCK's row is a write (R52). -/
theorem we_of_rowWrBlock_fits (h : rowWrBlock.fits a.descriptor = true) : a.we = true := by
  have hand : a.descriptor &&& rowWrBlock.mask = rowWrBlock.pattern := beq_iff_eq.mp h
  have hbit := congrArg (BitVec.getLsbD · 11) hand
  rw [BitVec.getLsbD_and, descriptor_we] at hbit
  exact (Bool.and_eq_true_iff.mp hbit).1

end Descriptors

/-- A command's constraint is an even round count (R54). -/
theorem roundsOk_iff (r : BitVec 8) : roundsOk r = true ↔ r.toNat % 2 = 0 := by
  simp [roundsOk, BitVec.getLsbD, Nat.testBit_zero]

/-- An even round count ends in the bit 0 (R54). -/
theorem lsb_eq_false_of_roundsOk {r : BitVec 8} (h : roundsOk r = true) : r.getLsbD 0 = false := by
  simpa [roundsOk] using h

section CommandWords

variable (v : Word) (op : Op) (r : BitVec 8)

/-- A command word is its three fields (R53). -/
theorem word_eq_fields : v = cmdRsv v ++ cmdOp v ++ cmdRounds v := by
  have hhigh : cmdRsv v ++ cmdOp v = v.extractLsb' 8 24 :=
    BitVec.extractLsb'_append_extractLsb'_eq_extractLsb' rfl
  have hall : v.extractLsb' 8 24 ++ cmdRounds v = v.extractLsb' 0 32 :=
    BitVec.extractLsb'_append_extractLsb'_eq_extractLsb' rfl
  rw [hhigh, hall, BitVec.extractLsb'_eq_self]

@[simp] theorem cmdRsv_commandWord : cmdRsv (op.commandWord r) = 0#20 :=
  (BitVec.extractLsb'_append_eq_of_le (by omega)).trans BitVec.extractLsb'_append_eq_left

@[simp] theorem cmdOp_commandWord : cmdOp (op.commandWord r) = op.field :=
  (BitVec.extractLsb'_append_eq_of_le (by omega)).trans BitVec.extractLsb'_append_eq_right

@[simp] theorem cmdRounds_commandWord : cmdRounds (op.commandWord r) = r := BitVec.extractLsb'_append_eq_right

/-- The OP fields 1, 2, 3 name the three operations, and no others do (R54). -/
theorem opOfField_eq_some_iff (f : BitVec 4) : opOfField f = some op ↔ f = op.field := by
  cases op <;> revert f <;> decide

/-- The decoder of format CMD accepts the command words and reads each as its command (R54, R61). -/
@[simp] theorem decodeCmd_commandWord : decodeCmd (op.commandWord r) = .ok (op.instr r) := by
  have hop : opOfField op.field = some op := (opOfField_eq_some_iff op _).mpr rfl
  simp [decodeCmd, hop]

/-- Everything `decodeCmd` can answer: the command of a command word, or a rejection of any other word (R54, R56). -/
theorem decodeCmd_cases :
    (∃ op r, v = Op.commandWord op r ∧ decodeCmd v = .ok (op.instr r)) ∨
      ((∀ op r, v ≠ Op.commandWord op r) ∧ (cmdRsv v ≠ 0#20 ∨ opOfField (cmdOp v) = none) ∧
        ∃ e, decodeCmd v = .error e) := by
  by_cases hrsv : cmdRsv v = 0#20
  · cases hop : opOfField (cmdOp v) with
    | none =>
      refine .inr ⟨?_, .inr rfl, .reservedOp, by simp [decodeCmd, hrsv, hop]⟩
      rintro op r rfl
      rw [cmdOp_commandWord, (opOfField_eq_some_iff op _).mpr rfl] at hop
      cases hop
    | some op =>
      refine .inl ⟨op, cmdRounds v, ?_, by simp [decodeCmd, hrsv, hop]⟩
      rw [Op.commandWord, ← hrsv, ← (opOfField_eq_some_iff op _).mp hop]
      exact word_eq_fields v
  · refine .inr ⟨?_, .inl hrsv, .reservedBits, by simp [decodeCmd, hrsv]⟩
    rintro op r rfl
    exact hrsv (cmdRsv_commandWord op r)

/-- A command is encoded as the CMD write of its command word (R61). -/
theorem encode_instr : encode (op.instr r) = cmdAccess (op.commandWord r) := by cases op <;> rfl

end CommandWords

/-! ### The access decoder -/

/-- A CMD write of a command word is read as that command (R50, R61). -/
@[simp] theorem decodeAccess_commandWord (op : Op) (r : BitVec 8) :
    decodeAccess (cmdAccess (op.commandWord r)) = .ok (op.instr r) := by
  have hbus : decodeBus 0xD00#12 (op.commandWord r) = .ok (.wrCmd (op.commandWord r)) := rfl
  have hwdata : (cmdAccess (op.commandWord r)).wdata = op.commandWord r := rfl
  simp [decodeAccess, hwdata, hbus]

/-- A CMD write of any other word stays WR_CMD (R50, R103). -/
theorem decodeAccess_cmdAccess {v : Word} (hv : ∀ op r, v ≠ Op.commandWord op r) :
    decodeAccess (cmdAccess v) = .ok (.wrCmd v) := by
  have hbus : decodeBus 0xD00#12 v = .ok (.wrCmd v) := rfl
  have hwdata : (cmdAccess v).wdata = v := rfl
  rcases decodeCmd_cases v with ⟨op, r, hword, -⟩ | ⟨-, -, e, he⟩
  · exact absurd hword (hv op r)
  · simp [decodeAccess, hwdata, hbus, he]

/-- An access with a descriptor other than WR_CMD's is a STATUS read, a block access, or of no row (R52). -/
theorem decodeAccess_of_not_cmd {a : Access} (h : a.descriptor ≠ 0xD00#12) :
    decodeAccess a = .ok .rdStatus ∨ (∃ size addr, decodeAccess a = .ok (.wrBlock size addr a.wdata)) ∨
      (∃ size addr, decodeAccess a = .ok (.rdBlock size addr)) ∨ ∃ e, decodeAccess a = .error e := by
  have hcmd : ¬ rowWrCmd.fits a.descriptor = true := mt (rowWrCmd_fits_iff _).mp h
  unfold decodeAccess decodeBus
  rw [if_neg hcmd]
  by_cases hstatus : rowRdStatus.fits a.descriptor = true
  · exact .inl (by rw [if_pos hstatus])
  by_cases hwr : rowWrBlock.fits a.descriptor = true
  · exact .inr (.inl ⟨_, _, by rw [if_neg hstatus, if_pos hwr]⟩)
  by_cases hrd : rowRdBlock.fits a.descriptor = true
  · exact .inr (.inr (.inl ⟨_, _, by rw [if_neg hstatus, if_neg hwr, if_pos hrd]⟩))
  · exact .inr (.inr (.inr ⟨_, by rw [if_neg hstatus, if_neg hwr, if_neg hrd]⟩))

/-- Every access is a CMD write of a command word, a CMD write of another word, or none, with the decoder's answer to
each (R50, R52, R54). -/
theorem decodeAccess_cases (a : Access) :
    (∃ op r, a = cmdAccess (Op.commandWord op r) ∧ decodeAccess a = .ok (op.instr r)) ∨
      (∃ v, (∀ op r, v ≠ Op.commandWord op r) ∧ a = cmdAccess v ∧ decodeAccess a = .ok (.wrCmd v)) ∨
      decodeAccess a = .ok .rdStatus ∨ (∃ size addr, decodeAccess a = .ok (.wrBlock size addr a.wdata)) ∨
      (∃ size addr, decodeAccess a = .ok (.rdBlock size addr)) ∨ ∃ e, decodeAccess a = .error e := by
  by_cases hd : a.descriptor = 0xD00#12
  · have ha := eq_cmdAccess_of_descriptor a hd
    rcases decodeCmd_cases a.wdata with ⟨op, r, hword, -⟩ | ⟨hword, -, -⟩
    · rw [hword] at ha
      exact .inl ⟨op, r, ha, ha ▸ decodeAccess_commandWord op r⟩
    · exact .inr (.inl ⟨a.wdata, hword, ha, (congrArg decodeAccess ha).trans (decodeAccess_cmdAccess hword)⟩)
  · exact .inr (.inr (decodeAccess_of_not_cmd hd))

section BlockAccesses

variable (size : BitVec 2) (addr : BitVec 8) (wdata : Word)

/-- WR_BLOCK is decoded from its encoding, well formed or not (R50, R52). -/
@[simp] theorem decodeAccess_encode_wrBlock :
    decodeAccess (encode (.wrBlock size addr wdata)) = .ok (.wrBlock size addr wdata) := by
  have hcmd := mt (rowWrCmd_fits_iff _).mp (descriptor_ne_of_block (encode (.wrBlock size addr wdata)) rfl rfl)
  have hstatus := mt (rowRdStatus_fits_iff _).mp (descriptor_ne_of_block (encode (.wrBlock size addr wdata)) rfl rfl)
  have hrow : rowWrBlock.fits (encode (.wrBlock size addr wdata)).descriptor = true :=
    (Laws.EncodesItsRow.wrBlock size addr wdata).1
  unfold decodeAccess decodeBus
  rw [if_neg hcmd, if_neg hstatus, if_pos hrow, descriptor_size, descriptor_blockAddr _ rfl]
  rfl

/-- RD_BLOCK is decoded from its encoding, well formed or not (R50, R52). -/
@[simp] theorem decodeAccess_encode_rdBlock :
    decodeAccess (encode (.rdBlock size addr)) = .ok (.rdBlock size addr) := by
  have hcmd := mt (rowWrCmd_fits_iff _).mp (descriptor_ne_of_block (encode (.rdBlock size addr)) rfl rfl)
  have hstatus := mt (rowRdStatus_fits_iff _).mp (descriptor_ne_of_block (encode (.rdBlock size addr)) rfl rfl)
  have hwrite : ¬ rowWrBlock.fits (encode (.rdBlock size addr)).descriptor = true :=
    mt (we_of_rowWrBlock_fits _) Bool.false_ne_true
  have hrow : rowRdBlock.fits (encode (.rdBlock size addr)).descriptor = true :=
    (Laws.EncodesItsRow.rdBlock size addr).1
  unfold decodeAccess decodeBus
  rw [if_neg hcmd, if_neg hstatus, if_neg hwrite, if_pos hrow, descriptor_size, descriptor_blockAddr _ rfl]
  rfl

end BlockAccesses

namespace Machine

/-- Which accesses can be held (R39): every CMD write, and the well-formed block accesses. -/
@[simp] theorem holdable_cmdAccess (v : Word) : holdable (cmdAccess v) = true := by
  unfold holdable
  rcases decodeCmd_cases v with ⟨op, r, rfl, -⟩ | ⟨hword, -, -⟩
  · rw [decodeAccess_commandWord]
    cases op <;> rfl
  · rw [decodeAccess_cmdAccess hword]

@[simp] theorem holdable_encode_wrBlock (size : BitVec 2) (addr : BitVec 8) (wdata : Word) :
    holdable (encode (.wrBlock size addr wdata)) = blockAccessOk size addr := by
  rw [holdable, decodeAccess_encode_wrBlock]

@[simp] theorem holdable_encode_rdBlock (size : BitVec 2) (addr : BitVec 8) :
    holdable (encode (.rdBlock size addr)) = blockAccessOk size addr := by
  rw [holdable, decodeAccess_encode_rdBlock]

/-! ### Everything serving an access and a step can do

`Served` and `Transition` say what `serve` and `step` can lead to, case by case; `serve_served` and `step_transition`
tie them to the model. Each safety statement below is a case analysis of them. -/

/-- Serving the access `a` in `s` leads to the state in the index: the cases of R34, R39, R103, R121 and R124. -/
inductive Served (a : Access) (s : State) : State → Prop
  /-- The access is refused (R121). -/
  | refused : Served a s s.refuse
  /-- A read is answered and changes no state of the engine (R101, R105). -/
  | read (v : Word) : Served a s { s with port := none, reply := .read v }
  /-- The access waits for the running command (R39). -/
  | held (b : Access) (hrun : s.seq = .run) (hb : holdable b = true) : Served a s (s.hold b)
  /-- A block-window write is performed (R100). -/
  | windowWritten (off : BitVec 9) (n : Nat) (v : Word) (hrun : s.seq ≠ .run) :
      Served a s { s.writeWindow off n v with port := none, reply := .written }
  /-- A command with an even round count is accepted (R104). -/
  | accepted (op : Op) (r : BitVec 8) (hidle : s.seq = .idle) (ha : a = encode (op.instr r))
      (heven : roundsOk r = true) : Served a s { s.accept op r with port := none, reply := .written }
  /-- A command with an odd round count faults (R120). -/
  | oddRounds (op : Op) (r : BitVec 8) (hidle : s.seq = .idle) (ha : a = encode (op.instr r))
      (hodd : roundsOk r = false) : Served a s { s.raiseFault errOddRounds with port := none, reply := .written }
  /-- A word that is no command faults (R56, R120). -/
  | illegalCommand (v : Word) (hidle : s.seq = .idle) (ha : a = cmdAccess v)
      (hv : ∀ op r, v ≠ Op.commandWord op r) :
      Served a s { s.raiseFault errIllegalCmd with port := none, reply := .written }

/-- A step from `s` leads to the state in the index: the moves of R10's three agents. -/
inductive Transition (s : State) : State → Prop
  /-- The reset step (R141). -/
  | reset (rest : List HostEvent) (hreset : s.resetNext) : Transition s (State.resetStep { s with host := rest })
  /-- No agent has a move; at most the host's events change (R128). -/
  | quiet (h : List HostEvent) (hreset : ¬ s.resetNext) (hrun : s.seq ≠ .run) :
      Transition s { s with host := h, reply := .noAck }
  /-- The completion step (R93). -/
  | completed (h : List HostEvent) (hreset : ¬ s.resetNext) (hrun : s.seq = .run) (hrc : s.rc = 0#8) :
      Transition s { s.completionStep with host := h, reply := .noAck }
  /-- A round step (R90). -/
  | round (h : List HostEvent) (hreset : ¬ s.resetNext) (hrun : s.seq = .run) (hrc : s.rc ≠ 0#8) :
      Transition s { s.roundStep with host := h, reply := .noAck }
  /-- An access is served from the port or from the host's events (R38). -/
  | served {t : State} (a : Access) (h : List HostEvent) (hreset : ¬ s.resetNext) (ha : s.serves a)
      (ht : Served a { s with port := none, host := h } t) : Transition s t

section Serving

variable (s : State) (a b : Access)

/-- A CMD write is refused, held or performed by SEQ (R34 branch 5), whatever it performs. -/
theorem served_of_cmdWrite {f : State → State} (hb : holdable b = true)
    (hf : s.seq = .idle → Served a s { f s with port := none, reply := .written }) :
    ∃ t, s.answerWrite b (s.cmdWrite f) = .next t ∧ Served a s t := by
  rcases cmdWrite_cases s f with ⟨hseq, hw⟩ | ⟨hseq, hw⟩ | ⟨hseq, hw⟩ <;> rw [hw]
  · exact ⟨_, rfl, .held b hseq hb⟩
  · exact ⟨_, rfl, .refused⟩
  · exact ⟨_, rfl, hf hseq⟩

/-- A command's meaning is the CMD write of its word (R61). -/
theorem exec_instr (op : Op) (r : BitVec 8) :
    exec (op.instr r) s =
      s.answerWrite (cmdAccess (op.commandWord r)) (s.cmdWrite fun t => t.startCommand op r) := by
  cases op <;> rfl

theorem exec_command_served (op : Op) (r : BitVec 8) :
    ∃ t, exec (op.instr r) s = .next t ∧ Served (cmdAccess (op.commandWord r)) s t := by
  have ha := (encode_instr op r).symm
  rw [exec_instr]
  refine served_of_cmdWrite s _ _ (holdable_cmdAccess _) fun hidle => ?_
  rcases startCommand_cases s op r with ⟨hodd, hf⟩ | ⟨heven, hf⟩ <;> rw [hf]
  · exact .oddRounds op r hidle ha hodd
  · exact .accepted op r hidle ha heven

theorem exec_illegal_served {v : Word} (hv : ∀ op r, v ≠ Op.commandWord op r) :
    ∃ t, exec (.wrCmd v) s = .next t ∧ Served (cmdAccess v) s t := by
  rw [exec, execWrCmd, memWrite_cmd]
  refine served_of_cmdWrite s _ _ (holdable_cmdAccess v) fun hidle => ?_
  have hfault : s.writeCmd v = s.raiseFault errIllegalCmd := by
    rcases decodeCmd_cases v with ⟨op, r, hword, -⟩ | ⟨-, hillegal, -⟩
    · exact absurd hword (hv op r)
    · rcases writeCmd_cases s v with ⟨-, hw⟩ | ⟨op, hrsv, hop, -⟩ | ⟨op, hrsv, hop, -⟩
      · exact hw
      · simp [hrsv, hop] at hillegal
      · simp [hrsv, hop] at hillegal
  rw [hfault]
  exact .illegalCommand v hidle rfl hv

theorem exec_rdStatus_served : ∃ t, exec .rdStatus s = .next t ∧ Served a s t := by
  rw [exec, execRdStatus, memRead_status]
  exact ⟨_, rfl, .read _⟩

theorem exec_wrBlock_served (size : BitVec 2) (addr : BitVec 8) (wdata : Word) :
    ∃ t, exec (.wrBlock size addr wdata) s = .next t ∧ Served a s t := by
  simp only [exec, execWrBlock, memWrite_block]
  by_cases hok : blockAccessOk size addr = false
  · rw [if_pos hok]
    exact ⟨_, rfl, .refused⟩
  by_cases hrun : s.seq = .run
  · rw [if_neg hok, if_pos hrun]
    exact ⟨_, rfl, .held _ hrun (by simpa using hok)⟩
  · rw [if_neg hok, if_neg hrun]
    exact ⟨_, rfl, .windowWritten _ _ _ hrun⟩

theorem exec_rdBlock_served (size : BitVec 2) (addr : BitVec 8) :
    ∃ t, exec (.rdBlock size addr) s = .next t ∧ Served a s t := by
  simp only [exec, execRdBlock, memRead_block]
  by_cases hok : blockAccessOk size addr = false
  · rw [if_pos hok]
    exact ⟨_, rfl, .refused⟩
  by_cases hrun : s.seq = .run
  · rw [if_neg hok, if_pos hrun]
    exact ⟨_, rfl, .held _ hrun (by simpa using hok)⟩
  · rw [if_neg hok, if_neg hrun]
    exact ⟨_, rfl, .read _⟩

/-- Serving an access always answers, in one of the ways of `Served`. -/
theorem serve_served : ∃ t, serve a s = .next t ∧ Served a s t := by
  unfold serve
  rcases decodeAccess_cases a with ⟨op, r, rfl, hd⟩ | ⟨v, hv, rfl, hd⟩ | hd | ⟨size, addr, hd⟩ | ⟨size, addr, hd⟩ |
    ⟨e, hd⟩ <;> rw [hd]
  · exact exec_command_served s op r
  · exact exec_illegal_served s hv
  · exact exec_rdStatus_served s a
  · exact exec_wrBlock_served s a size addr a.wdata
  · exact exec_rdBlock_served s a size addr
  · exact ⟨_, rfl, .refused⟩

end Serving

/-- The sequencer's turn is quiet outside RUN and the sequencer's step in RUN (R90, R93, R128). -/
theorem sequencerTurn_transition {s : State} (h : List HostEvent) (hreset : ¬ s.resetNext) :
    Transition s (State.sequencerTurn { s with host := h }) := by
  unfold State.sequencerTurn
  rcases sequencer_cases { s with host := h } with ⟨hrun, hq⟩ | ⟨hrun, hrc, hq⟩ | ⟨hrun, hrc, hq⟩ <;> rw [hq]
  · exact .quiet h hreset hrun
  · exact .completed h hreset hrun hrc
  · exact .round h hreset hrun hrc

/-- Every step is one of the moves of `Transition`. -/
theorem step_transition {s t : State} (hstep : step s = .next t) : Transition s t := by
  unfold step at hstep
  rcases turn_cases s with ⟨rest, hhost, hturn⟩ | ⟨hreset, h, hturn⟩ | ⟨hreset, a, h, -, hturn⟩ <;>
    rw [hturn] at hstep
  · cases hstep
    exact .reset rest (by simp [State.resetNext, hhost])
  · cases hstep
    exact sequencerTurn_transition h hreset
  · obtain ⟨u, hu, hserved⟩ := serve_served { s with port := none, host := h } a
    cases hu.symm.trans hstep
    exact .served a h hreset ((turn_serve_iff s a).mp ⟨_, hturn⟩) hserved

/-! ### The control invariant (O57) -/

section ControlInvariant

variable {s t : State} {a : Access}

/-- The invariant does not speak of the reply, the host's events and the mark, and holds with the port cleared. -/
theorem inv_portCleared (hinv : s.Inv) (reply : BusReply) (host : List HostEvent) (refusals : Nat) :
    State.Inv { s with port := none, reply := reply, host := host, refusals := refusals } := by
  obtain ⟨herr, hlatches, -⟩ := hinv
  exact ⟨herr, hlatches, trivial⟩

/-- One round fewer inverts the parity of RC, as it inverts PH (R90). -/
theorem getLsbD_zero_sub_one (r : BitVec 8) : (r - 1#8).getLsbD 0 = !r.getLsbD 0 := by
  revert r
  decide

/-- Acceptance sets the latches of one operation: DONE 0, PH the parity of an even count, not both OPADD and OPBATCH
(R104). -/
theorem accept_latchesOk (s : State) (op : Op) {r : BitVec 8} (heven : roundsOk r = true) :
    (s.accept op r).latchesOk :=
  ⟨by cases op <;> simp, fun _ => ⟨rfl, (lsb_eq_false_of_roundsOk heven).symm⟩⟩

theorem Served.inv (h : Served a s t) (hinv : s.Inv) : t.Inv := by
  obtain ⟨herr, hlatches, hport⟩ := hinv
  cases h with
  | held b hrun hb => exact ⟨herr, hlatches, by simp [hrun], hb⟩
  | refused | read | windowWritten => exact ⟨herr, hlatches, trivial⟩
  | accepted op r hidle _ heven =>
    exact ⟨⟨nofun, fun _ => herr.2 (by simp [hidle])⟩, accept_latchesOk s op heven, trivial⟩
  | oddRounds op r => exact ⟨⟨fun _ => .inl rfl, fun h => absurd rfl h⟩, ⟨hlatches.1, nofun⟩, trivial⟩
  | illegalCommand v => exact ⟨⟨fun _ => .inr rfl, fun h => absurd rfl h⟩, ⟨hlatches.1, nofun⟩, trivial⟩

/-- An access on the port survives the sequencer's step into a state that is not FAULT (R39). -/
theorem portOk_of_port_eq (hport : s.portOk) (ht : t.port = s.port) (hseq : t.seq ≠ .fault) : t.portOk := by
  unfold State.portOk at *
  rw [ht]
  cases hp : s.port with
  | none => trivial
  | some b =>
    rw [hp] at hport
    exact ⟨hseq, hport.2⟩

theorem Transition.inv (h : Transition s t) (hinv : s.Inv) : t.Inv := by
  have ⟨herr, ⟨hops, hlatches⟩, hport⟩ := hinv
  cases h with
  | reset rest => exact ⟨⟨nofun, fun _ => rfl⟩, ⟨nofun, nofun⟩, trivial⟩
  | quiet h => exact hinv
  | completed h _ hrun =>
    exact ⟨⟨nofun, fun _ => herr.2 (by simp [hrun])⟩, ⟨hops, nofun⟩, portOk_of_port_eq hport rfl nofun⟩
  | round h _ hrun =>
    obtain ⟨hdone, hph⟩ := hlatches hrun
    refine ⟨herr, ⟨hops, fun _ => ⟨hdone, ?_⟩⟩, hport⟩
    exact (congrArg not hph).trans (getLsbD_zero_sub_one s.rc).symm
  | served b h _ _ ht => exact ht.inv (inv_portCleared hinv s.reply h s.refusals)

end ControlInvariant

/-- Settles O57: each move of a step keeps the invariant. Acceptance and fault entry start in IDLE, where ERRCODE is 0;
a round inverts PH and the parity of RC together; only holdable accesses are held, and only in RUN. -/
theorem stepKeepsControlInvariant : Obligations.StepKeepsControlInvariant :=
  fun _ _ hinv hstep => (step_transition hstep).inv hinv

/-! ### The data-path invariant (O59) -/

/-- One more round after `n` rounds of alternating phase from `ph` (R89). -/
theorem rowRounds_succ (n : Nat) (ph : Bool) (x : Block) :
    rowRounds (n + 1) ph x = rowround (rowRounds n ph x) (ph ^^ decide (n % 2 = 1)) := by
  induction n generalizing ph x with
  | zero => simp [rowRounds]
  | succ n ih =>
    have hphase : (!ph ^^ decide (n % 2 = 1)) = (ph ^^ decide ((n + 1) % 2 = 1)) := by
      rcases Nat.mod_two_eq_zero_or_one n with hn | hn <;> simp [hn, Nat.add_mod]
    calc rowRounds (n + 2) ph x
        = rowRounds (n + 1) (!ph) (rowround x ph) := rfl
      _ = rowround (rowRounds n (!ph) (rowround x ph)) (!ph ^^ decide (n % 2 = 1)) := ih _ _
      _ = rowround (rowRounds (n + 1) ph x) (ph ^^ decide ((n + 1) % 2 = 1)) := by rw [hphase, rowRounds]

/-- Lane 0 of PROMOTE is the base (R110). -/
theorem promoteLane_zero (base : Block) : promoteLane base 0 = base := by
  refine Quad.ext_word fun j => ?_
  by_cases hj : j = 12
  · subst hj
    simp [promoteLane, add32]
  · exact Quad.word_setWord_ne _ _ _ _ hj

/-- Acceptance of a batch puts PROMOTE of lane 0 in the four lanes (R104, R110). -/
theorem promoteLanes_eq_promote (x : Lanes) : promoteLanes x = promote x.q0 :=
  Quad.ext_get fun k => match k with
    | 0 => (promoteLane_zero x.q0).symm
    | 1 => rfl
    | 2 => rfl
    | 3 => rfl

section CommandProgress

variable {s t : State} {a : Access}

/-- No round of a command has been run at its acceptance (R104). -/
theorem accept_ranRounds (s : State) (op : Op) {r : BitVec 8} (heven : roundsOk r = true) :
    (s.accept op r).ranRounds 0 := by
  have hr := (roundsOk_iff r).mp heven
  refine ⟨by simpa using hr, ?_, rfl, fun hsingle => ?_, fun hbatch k => ?_⟩
  · have hlt := r.isLt
    simp only [accept_rc]
    omega
  · have hop : op ≠ .batchPermute := by simpa using hsingle
    simp [hop, rowRounds]
  · have hop : op = .batchPermute := by simpa using hbatch
    simp [hop, rowRounds, promoteLanes_eq_promote]

/-- A round step runs one round more in every lane of the command (R90). -/
theorem roundStep_ranRounds {n : Nat} (hran : s.ranRounds n) (hrc : s.rc ≠ 0#8) : s.roundStep.ranRounds (n + 1) := by
  obtain ⟨heven, hmax, hph, hsingle, hbatch⟩ := hran
  have hpos : s.rc.toNat ≠ 0 := fun h => hrc (BitVec.eq_of_toNat_eq h)
  have hdown : s.roundStep.rc.toNat = s.rc.toNat - 1 := by
    rw [roundStep_rc]
    bv_omega
  have hphase : s.ph = (false ^^ decide (n % 2 = 1)) := by rw [hph, Bool.false_xor]
  refine ⟨by omega, by omega, ?_, fun hop => ?_, fun hop k => ?_⟩
  · rw [roundStep_ph, hph]
    rcases Nat.mod_two_eq_zero_or_one n with hn | hn <;> simp [hn, Nat.add_mod]
  · rw [roundStep_opbatch] at hop
    rw [roundStep_x, roundStep_p, rowRounds_succ, ← hphase, ← hsingle hop]
    simp [hop]
  · rw [roundStep_opbatch] at hop
    rw [roundStep_x, roundStep_p, rowRounds_succ, ← hphase, ← hbatch hop k]
    simp [hop]

/-- Serving starts a command with no round run, or leaves the running one alone (R39, R104). -/
theorem Served.commandProgress (h : Served a s t) (hprog : s.CommandProgress) : t.CommandProgress := by
  cases h with
  | refused | read | held => exact hprog
  | windowWritten off n v hrun => exact fun hseq => absurd hseq hrun
  | accepted op r _ _ heven => exact fun _ => ⟨0, accept_ranRounds s op heven⟩
  | oddRounds | illegalCommand => exact nofun

theorem Transition.commandProgress (h : Transition s t) (hprog : s.CommandProgress) : t.CommandProgress := by
  cases h with
  | reset rest => exact nofun
  | quiet h => exact hprog
  | completed h => exact nofun
  | round h _ hrun hrc =>
    obtain ⟨n, hran⟩ := hprog hrun
    exact fun _ => ⟨n + 1, roundStep_ranRounds hran hrc⟩
  | served b h _ _ ht => exact ht.commandProgress hprog

end CommandProgress

/-- Settles O59: acceptance starts the count of rounds at 0, a round step adds one, and every other move that leaves the
engine in RUN leaves its data alone. -/
theorem stepKeepsCommandProgress : Obligations.StepKeepsCommandProgress :=
  fun _ _ hprog hstep => (step_transition hstep).commandProgress hprog

/-! ### Where SEQ and the status registers are written (O31, O33) -/

/-- A command with an odd round count is the CMD write of an odd command word (R61, R120). -/
theorem serves_cmdAccess_of_instr {s : State} {op : Op} {r : BitVec 8} (h : s.serves (encode (op.instr r))) :
    s.serves (cmdAccess (op.commandWord r)) := encode_instr op r ▸ h

/-- Settles O31: of the moves of a step, only acceptance, completion, the two fault entries and reset write SEQ. -/
theorem sequencerTransitions : Obligations.SequencerTransitions := by
  intro s t hstep
  cases step_transition hstep with
  | reset _ hreset => exact .inl ⟨hreset, rfl⟩
  | quiet _ hreset | round _ hreset => exact .inr ⟨hreset, .inl rfl⟩
  | completed _ hreset hrun hrc => exact .inr ⟨hreset, .inr (.inr (.inl ⟨hrun, rfl, hrc, rfl⟩))⟩
  | served a h hreset hserves ht =>
    refine .inr ⟨hreset, ?_⟩
    cases ht with
    | refused | read | held | windowWritten => exact .inl rfl
    | accepted op r hidle ha heven =>
      exact .inr (.inl ⟨hidle, rfl, rfl, rfl, rfl, op, r, ha ▸ hserves, (roundsOk_iff r).mp heven, rfl, rfl, rfl⟩)
    | oddRounds op r hidle ha hodd =>
      have hnot : ¬ r.toNat % 2 = 0 := by simp [← roundsOk_iff, hodd]
      have hr : r.toNat % 2 = 1 := by omega
      exact .inr (.inr (.inr ⟨hidle, rfl, rfl, op.commandWord r, serves_cmdAccess_of_instr (ha ▸ hserves),
        .inl ⟨rfl, op, r, rfl, hr⟩⟩))
    | illegalCommand v hidle ha hv =>
      exact .inr (.inr (.inr ⟨hidle, rfl, rfl, v, ha ▸ hserves, .inr ⟨rfl, hv⟩⟩))

/-- A step outside RUN that serves no access and is no reset changes the reply and the host's events only (R128). -/
theorem step_quiet {s : State} (hreset : ¬ s.resetNext) (hrun : s.seq ≠ .run) (hquiet : ∀ a, ¬ s.serves a) :
    step s = .next { s with reply := .noAck, host := s.host.tail } := by
  have hidle : State.sequencer { s with host := s.host.tail } = { s with host := s.host.tail } := by
    rcases sequencer_cases { s with host := s.host.tail } with ⟨-, hq⟩ | ⟨h, -⟩ | ⟨h, -⟩
    · exact hq
    · exact absurd h hrun
    · exact absurd h hrun
  rw [step, turn_quiet s hreset hrun hquiet]
  simp only [State.sequencerTurn, hidle]

/-- Settles O33: acceptance, the round and completion steps and fault entry are the only moves without a reset that
write these registers, each the ones its rule names. -/
theorem hiddenCopyAndStatusRegistersWritten : Obligations.HiddenCopyAndStatusRegistersWritten := by
  intro s t hreset hstep
  have hquiet : s.seq ≠ .run → (∀ a, ¬ s.serves a) → t = { s with reply := .noAck, host := s.host.tail } :=
    fun hrun hq => Host.Outcome.next.inj (hstep.symm.trans (step_quiet hreset hrun hq))
  cases step_transition hstep with
  | reset _ h => exact absurd h hreset
  | quiet => exact ⟨.inl rfl, .inl rfl, .inl rfl, .inl rfl, .inl rfl, .inl ⟨rfl, rfl⟩, hquiet⟩
  | completed _ _ hrun hrc =>
    exact ⟨.inl rfl, .inr (.inl ⟨hrun, hrc, rfl, rfl⟩), .inl rfl, .inl rfl, .inl rfl, .inl ⟨rfl, rfl⟩, hquiet⟩
  | round _ _ hrun hrc =>
    exact ⟨.inl rfl, .inl rfl, .inl rfl, .inr (.inl ⟨hrun, hrc, rfl⟩), .inr (.inl ⟨hrun, hrc, rfl⟩),
      .inl ⟨rfl, rfl⟩, hquiet⟩
  | served a h _ _ ht =>
    cases ht with
    | refused | read | held | windowWritten =>
      exact ⟨.inl rfl, .inl rfl, .inl rfl, .inl rfl, .inl rfl, .inl ⟨rfl, rfl⟩, hquiet⟩
    | accepted op r hidle =>
      exact ⟨.inr ⟨hidle, rfl, rfl⟩, .inr (.inr ⟨hidle, rfl, rfl⟩), .inl rfl, .inr (.inr ⟨hidle, rfl⟩),
        .inr (.inr ⟨hidle, rfl, rfl⟩), .inr ⟨hidle, rfl⟩, hquiet⟩
    | oddRounds op r hidle =>
      exact ⟨.inl rfl, .inl rfl, .inr ⟨hidle, rfl, rfl, .inl rfl⟩, .inl rfl, .inl rfl, .inl ⟨rfl, rfl⟩, hquiet⟩
    | illegalCommand v hidle =>
      exact ⟨.inl rfl, .inl rfl, .inr ⟨hidle, rfl, rfl, .inr rfl⟩, .inl rfl, .inl rfl, .inl ⟨rfl, rfl⟩, hquiet⟩

end Machine

end Sys2Proof

/-! ### The bytes of a word and the byte lanes (R19, R32 to R34)

What `takeBytes` and `putBytes` do to each byte of a word, from what they do to each bit. -/

namespace Sys2Proof.Machine

section ByteOps

variable (v w : Word) (i n : Nat)

@[simp] theorem getLsbD_lowBytes (m : Nat) : (lowBytes n).getLsbD m = (decide (m < 32) && decide (m < 8 * n)) := by
  rw [lowBytes, BitVec.getLsbD_ofNat, Nat.testBit_two_pow_sub_one]

theorem getLsbD_takeBytes (m : Nat) :
    (takeBytes w i n).getLsbD m = (w.getLsbD (8 * i + m) && decide (m < 8 * n)) := by
  rw [takeBytes, BitVec.getLsbD_and, BitVec.getLsbD_ushiftRight, getLsbD_lowBytes]
  by_cases hm : m < 32
  · simp [hm]
  · simp [BitVec.getLsbD_of_ge w (8 * i + m) (by omega)]

theorem getLsbD_putBytes {m : Nat} (hm : m < 32) :
    (putBytes w i n v).getLsbD m =
      if 8 * i ≤ m ∧ m < 8 * (i + n) then v.getLsbD (m - 8 * i) else w.getLsbD m := by
  have hin : (8 * i ≤ m ∧ m < 8 * (i + n)) ↔ ¬ m < 8 * i ∧ m - 8 * i < 8 * n := by omega
  have hlow : m - 8 * i < 32 := by omega
  simp only [putBytes, BitVec.getLsbD_or, BitVec.getLsbD_and, BitVec.getLsbD_not, BitVec.getLsbD_shiftLeft,
    getLsbD_lowBytes, hin]
  by_cases h1 : m < 8 * i <;> by_cases h2 : m - 8 * i < 8 * n <;> simp [h1, h2, hm, hlow]

theorem getLsbD_byteOfWord {b : Nat} (hb : b < 8) : (byteOfWord w i).getLsbD b = w.getLsbD (8 * i + b) := by
  simp [byteOfWord, hb]

/-- Byte `m` of the `n` bytes taken from byte `i` on (R33). -/
theorem byteOfWord_takeBytes (m : Nat) :
    byteOfWord (takeBytes w i n) m = if m < n then byteOfWord w (i + m) else 0#8 := by
  refine BitVec.eq_of_getLsbD_eq fun b hb => ?_
  have hin : 8 * m + b < 8 * n ↔ m < n := by omega
  rw [getLsbD_byteOfWord _ _ hb, getLsbD_takeBytes, ← Nat.add_assoc, ← Nat.mul_add]
  by_cases h : m < n <;> simp [h, hin, getLsbD_byteOfWord _ _ hb]

/-- Byte `m` of a word after its bytes `i` to `i + n - 1` were replaced (R34). -/
theorem byteOfWord_putBytes {m : Nat} (hm : m < 4) :
    byteOfWord (putBytes w i n v) m = if i ≤ m ∧ m < i + n then byteOfWord v (m - i) else byteOfWord w m := by
  refine BitVec.eq_of_getLsbD_eq fun b hb => ?_
  have hin : (8 * i ≤ 8 * m + b ∧ 8 * m + b < 8 * (i + n)) ↔ i ≤ m ∧ m < i + n := by omega
  rw [getLsbD_byteOfWord _ _ hb, getLsbD_putBytes _ _ _ _ (by omega)]
  simp only [hin]
  by_cases h : i ≤ m ∧ m < i + n
  · have hbit : 8 * m + b - 8 * i = 8 * (m - i) + b := by omega
    rw [if_pos h, if_pos h, getLsbD_byteOfWord _ _ hb, hbit]
  · rw [if_neg h, if_neg h, getLsbD_byteOfWord _ _ hb]

/-- Byte `m` of a value on the byte lanes of an access at `a` (R19). -/
theorem byteOfWord_toByteLanes (a : BitVec 9) {m : Nat} (hm : m < 4) :
    byteOfWord (toByteLanes a v) m = if byteOf a ≤ m then byteOfWord v (m - byteOf a) else 0#8 := by
  refine BitVec.eq_of_getLsbD_eq fun b hb => ?_
  have hlt : 8 * m + b < 8 * byteOf a ↔ ¬ byteOf a ≤ m := by omega
  rw [getLsbD_byteOfWord _ _ hb, toByteLanes, BitVec.getLsbD_shiftLeft]
  by_cases h : byteOf a ≤ m
  · have hbit : 8 * m + b - 8 * byteOf a = 8 * (m - byteOf a) + b := by omega
    have h32 : 8 * m + b < 32 := by omega
    simp [h, hlt, h32, hbit, getLsbD_byteOfWord _ _ hb]
  · simp [h, hlt]

/-- Taking the bytes just put returns the value put (R36). -/
theorem takeBytes_putBytes {i n : Nat} (hin : i + n ≤ 4) : takeBytes (putBytes w i n v) i n = takeBytes v 0 n := by
  refine BitVec.eq_of_getLsbD_eq fun m _ => ?_
  rw [getLsbD_takeBytes, getLsbD_takeBytes]
  by_cases hm : m < 8 * n
  · have hnamed : 8 * i ≤ 8 * i + m ∧ 8 * i + m < 8 * (i + n) := by omega
    rw [getLsbD_putBytes _ _ _ _ (by omega), if_pos hnamed]
    simp
  · simp [hm]

/-- Of `n` bytes taken, the low `n` are all. -/
@[simp] theorem takeBytes_takeBytes : takeBytes (takeBytes w i n) 0 n = takeBytes w i n := by
  refine BitVec.eq_of_getLsbD_eq fun m _ => ?_
  simp [getLsbD_takeBytes]

/-- All four bytes of a word are the word. -/
@[simp] theorem takeBytes_zero_four : takeBytes w 0 4 = w := by
  refine BitVec.eq_of_getLsbD_eq fun m hm => ?_
  rw [getLsbD_takeBytes]
  simp [hm]

end ByteOps

/-! ### Offsets of the windows (R31 to R33) -/

@[simp] theorem byteOf_blockOffset (addr : BitVec 8) : byteOf (blockOffset addr) = addr.toNat % 4 := by
  simp [byteOf]

section Offsets

variable {a : BitVec 9} {k : Fin 4} {m : Fin 64}

theorem laneOf_eq (ha : a.toNat = 64 * k.val + m.val) : laneOf a = k := Fin.ext (by simp only [laneOf]; omega)

theorem wordOf_eq (ha : a.toNat = 64 * k.val + m.val) : wordOf a = ⟨m.val / 4, by omega⟩ :=
  Fin.ext (by simp only [wordOf]; omega)

theorem byteOf_eq (ha : a.toNat = 64 * k.val + m.val) : byteOf a = m.val % 4 := by
  simp only [byteOf]
  omega

/-- The offset of byte `m` of window `k` as a number: it has eight bits. -/
theorem blockOffset_window (k : Fin 4) (m : Fin 64) :
    (blockOffset (BitVec.ofNat 8 (64 * k.val + m.val))).toNat = 64 * k.val + m.val := by
  rw [blockOffset_toNat, BitVec.toNat_ofNat]
  omega

end Offsets

/-- Window `k` shows lane `k` encoded (R32, R102). -/
theorem windowByte_eq_encodeBlock (s : State) (k : Fin 4) (m : Fin 64) :
    s.windowByte (BitVec.ofNat 8 (64 * k.val + m.val)) = encodeBlock (s.x.get k) m := by
  have ha := blockOffset_window k m
  simp only [State.windowByte, State.word, encodeBlock, laneOf_eq ha, wordOf_eq ha, byteOf_eq ha]

/-- Byte `4j + i` of an encoded block is byte `i` of word `j` (R102). -/
theorem encodeBlock_word (b : Block) (j : Fin 16) (i : Fin 4) :
    encodeBlock b ⟨4 * j.val + i.val, by omega⟩ = byteOfWord (b.word j) i.val := by
  have hj : (⟨(4 * j.val + i.val) / 4, by omega⟩ : Fin 16) = j := Fin.ext (by simp only; omega)
  have hi : (4 * j.val + i.val) % 4 = i.val := by omega
  simp only [encodeBlock, hj, hi]

/-- Settles O18: window `k` is lane `k` encoded, and the encoding is little-endian. -/
theorem windowsShowLanesLittleEndian : Obligations.WindowsShowLanesLittleEndian := by
  intro s k
  refine ⟨fun j i => ?_, windowByte_eq_encodeBlock s k⟩
  have hbyte := windowByte_eq_encodeBlock s k ⟨4 * j.val + i.val, by omega⟩
  rw [encodeBlock_word] at hbyte
  rw [Nat.add_assoc]
  exact hbyte

end Sys2Proof.Machine

/-! ### What each instruction answers

One equation per instruction that reads or writes, with the branches of R33, R34 and R39 in order. -/

namespace Sys2Proof.Machine

/-- The state a performed WR_BLOCK leaves in X (R100). -/
def State.wrBlock (s : State) (size : BitVec 2) (addr : BitVec 8) (wdata : Word) : State :=
  s.writeWindow (blockOffset addr) (sizeBytes size) (fromByteLanes (blockOffset addr) (sizeBytes size) wdata)

/-- The `rdata` pins an answered RD_BLOCK drives (R101). -/
def State.rdBlockPins (s : State) (size : BitVec 2) (addr : BitVec 8) : Word :=
  toByteLanes (blockOffset addr)
    (takeBytes (s.word (laneOf (blockOffset addr)) (wordOf (blockOffset addr))) (byteOf (blockOffset addr))
      (sizeBytes size))

section Answers

variable (s : State)

/-- WR_BLOCK (R100): refused when ill formed, held in RUN, otherwise performed. -/
theorem exec_wrBlock (size : BitVec 2) (addr : BitVec 8) (wdata : Word) :
    exec (.wrBlock size addr wdata) s =
      if blockAccessOk size addr = false then .next s.refuse
      else if s.seq = .run then .next (s.hold (encode (.wrBlock size addr wdata)))
      else .next { s.wrBlock size addr wdata with port := none, reply := .written } := by
  simp only [exec, execWrBlock, memWrite_block]
  split_ifs <;> rfl

/-- RD_BLOCK (R101): refused when ill formed, held in RUN, otherwise answered. -/
theorem exec_rdBlock (size : BitVec 2) (addr : BitVec 8) :
    exec (.rdBlock size addr) s =
      if blockAccessOk size addr = false then .next s.refuse
      else if s.seq = .run then .next (s.hold (encode (.rdBlock size addr)))
      else .next { s with port := none, reply := .read (s.rdBlockPins size addr) } := by
  simp only [exec, execRdBlock, memRead_block]
  split_ifs <;> rfl

/-- RD_STATUS (R105): answered in every state. -/
theorem exec_rdStatus : exec .rdStatus s = .next { s with port := none, reply := .read s.status } := by
  have hlanes : toByteLanes (encode .rdStatus).addr s.status = s.status := BitVec.shiftLeft_zero s.status
  rw [exec, execRdStatus, memRead_status, State.answerRead, hlanes]

/-- WR_CMD (R103) is the command write of its word. -/
theorem exec_wrCmd (v : Word) :
    exec (.wrCmd v) s = s.answerWrite (cmdAccess v) (s.cmdWrite fun t => t.writeCmd v) := by
  rw [exec, execWrCmd, memWrite_cmd]
  rfl

end Answers

section CommandWrites

variable {s : State} (a : Access) (f : State → State)

/-- A command write is held in RUN (R39). -/
theorem answerWrite_cmdWrite_run (hrun : s.seq = .run) :
    s.answerWrite a (s.cmdWrite f) = .next (s.hold a) := by
  rw [State.cmdWrite, hrun]
  rfl

/-- A command write is refused in FAULT (R40). -/
theorem answerWrite_cmdWrite_fault (hfault : s.seq = .fault) :
    s.answerWrite a (s.cmdWrite f) = .next s.refuse := by
  rw [State.cmdWrite, hfault]
  rfl

/-- A command write is performed in IDLE (R103). -/
theorem answerWrite_cmdWrite_idle (hidle : s.seq = .idle) :
    s.answerWrite a (s.cmdWrite f) = .next { f s with port := none, reply := .written } := by
  rw [State.cmdWrite, hidle]
  rfl

end CommandWrites

/-- A block access with size code 3 or misaligned breaks the table's constraint (R35, R52). -/
theorem blockAccessOk_eq_false_iff (size : BitVec 2) (addr : BitVec 8) :
    blockAccessOk size addr = false ↔ size = 3#2 ∨ addr.toNat % sizeBytes size ≠ 0 := by
  by_cases h : size = 3#2 <;> simp [blockAccessOk, sizeBytes, h]

/-- A well-formed block access stays inside one word (R32, R35). -/
theorem byte_add_sizeBytes_le {size : BitVec 2} {addr : BitVec 8} (hok : blockAccessOk size addr = true) :
    addr.toNat % 4 + sizeBytes size ≤ 4 := by
  have hill := mt (blockAccessOk_eq_false_iff size addr).mpr (by simp [hok])
  obtain ⟨hsize, haligned⟩ := not_or.mp hill
  have hsizes : ∀ c : BitVec 2, c = 0#2 ∨ c = 1#2 ∨ c = 2#2 ∨ c = 3#2 := by decide
  rcases hsizes size with rfl | rfl | rfl | rfl
  · show addr.toNat % 4 + 1 ≤ 4
    omega
  · have h2 : ¬ addr.toNat % 2 ≠ 0 := haligned
    show addr.toNat % 4 + 2 ≤ 4
    omega
  · have h4 : ¬ addr.toNat % 4 ≠ 0 := haligned
    show addr.toNat % 4 + 4 ≤ 4
    omega
  · exact absurd rfl hsize

/-- Settles O28: check 6 of R38 holds a well-formed block access, and CMD writes are held whatever their word. -/
theorem accessesHeldWhileRunning : Obligations.AccessesHeldWhileRunning := by
  intro s hrun
  refine ⟨fun size addr wdata hok => ?_, fun size addr hok => ?_, fun v => ?_, fun op r => ?_⟩
  · simp [exec_wrBlock, hok, hrun, State.hold]
  · simp [exec_rdBlock, hok, hrun, State.hold]
  · rw [exec_wrCmd, answerWrite_cmdWrite_run _ _ hrun]
    rfl
  · rw [exec_instr, answerWrite_cmdWrite_run _ _ hrun, encode_instr]
    rfl

/-- Settles O38: the access checks come before the look at SEQ (R33, R34). -/
theorem illFormedBlockAccessRefused : Obligations.IllFormedBlockAccessRefused := by
  intro size addr wdata s hill
  have hok := (blockAccessOk_eq_false_iff size addr).mpr hill
  rw [exec_wrBlock, exec_rdBlock, if_pos hok, if_pos hok]
  exact ⟨rfl, rfl⟩

/-- Settles O39: refused, held or answered, a read changes the port, the reply and the mark only. -/
theorem readsChangeNoState : Obligations.ReadsChangeNoState := by
  rintro s t (h | ⟨size, addr, h⟩)
  · cases (exec_rdStatus s).symm.trans h
    exact ⟨rfl, fun _ => rfl⟩
  · rw [exec_rdBlock] at h
    split_ifs at h <;> cases h <;> exact ⟨rfl, fun _ => rfl⟩

/-! ### The window bytes after a write, and the bytes a read returns (R100, R101) -/

/-- Two offsets name one word exactly when they agree but for the byte (R32). -/
theorem sameWord_iff (a b : BitVec 8) :
    (laneOf (blockOffset a) = laneOf (blockOffset b) ∧ wordOf (blockOffset a) = wordOf (blockOffset b)) ↔
      a.toNat / 4 = b.toNat / 4 := by
  have ha := a.isLt
  have hb := b.isLt
  simp only [laneOf, wordOf, blockOffset_toNat, Fin.mk.injEq]
  omega

/-- A word of `X` after one word was written (R34). -/
theorem word_setWord (s : State) (k k' : Fin 4) (j j' : Fin 16) (v : Word) :
    (s.setWord k j v).word k' j' = if k' = k ∧ j' = j then v else s.word k' j' := by
  unfold State.word
  rw [setWord_x]
  by_cases hk : k' = k
  · subst hk
    rw [Quad.get_set_self]
    by_cases hj : j' = j
    · simp [hj]
    · rw [Quad.word_setWord_ne _ _ _ _ hj, if_neg fun h => hj h.2]
  · rw [Quad.get_set_ne _ _ _ _ hk, if_neg fun h => hk h.1]

/-- A window byte after a block-window write: the bytes named inside the word take the value's, the others stay
(R34). -/
theorem windowByte_writeWindow (s : State) (addr b : BitVec 8) (n : Nat) (v : Word) :
    (s.writeWindow (blockOffset addr) n v).windowByte b =
      if b.toNat / 4 = addr.toNat / 4 ∧ addr.toNat % 4 ≤ b.toNat % 4 ∧ b.toNat % 4 < addr.toNat % 4 + n then
        byteOfWord v (b.toNat % 4 - addr.toNat % 4)
      else s.windowByte b := by
  simp only [State.windowByte, State.writeWindow, word_setWord, sameWord_iff, byteOf_blockOffset]
  by_cases hword : b.toNat / 4 = addr.toNat / 4
  · obtain ⟨hlane, hindex⟩ := (sameWord_iff b addr).mpr hword
    rw [if_pos hword, byteOfWord_putBytes _ _ _ _ (Nat.mod_lt _ (by omega)), hlane, hindex]
    simp only [hword, true_and]
  · rw [if_neg hword, if_neg fun h => hword h.1]

/-- The window bytes a well-formed WR_BLOCK leaves (R100). -/
theorem windowByte_wrBlock (s : State) {size : BitVec 2} {addr : BitVec 8} (hok : blockAccessOk size addr = true)
    (wdata : Word) (b : BitVec 8) :
    (s.wrBlock size addr wdata).windowByte b =
      if addr.toNat ≤ b.toNat ∧ b.toNat < addr.toNat + sizeBytes size then byteOfWord wdata (b.toNat % 4)
      else s.windowByte b := by
  have hfit := byte_add_sizeBytes_le hok
  have hnamed : (b.toNat / 4 = addr.toNat / 4 ∧ addr.toNat % 4 ≤ b.toNat % 4 ∧
      b.toNat % 4 < addr.toNat % 4 + sizeBytes size) ↔
      addr.toNat ≤ b.toNat ∧ b.toNat < addr.toNat + sizeBytes size := by omega
  rw [State.wrBlock, windowByte_writeWindow, fromByteLanes, byteOfWord_takeBytes, byteOf_blockOffset]
  simp only [hnamed]
  by_cases h : addr.toNat ≤ b.toNat ∧ b.toNat < addr.toNat + sizeBytes size
  · have hlt : b.toNat % 4 - addr.toNat % 4 < sizeBytes size := by omega
    have hbyte : addr.toNat % 4 + (b.toNat % 4 - addr.toNat % 4) = b.toNat % 4 := by omega
    rw [if_pos h, if_pos h, if_pos hlt, hbyte]
  · rw [if_neg h, if_neg h]

/-- WR_BLOCK where it is performed (R100). -/
theorem exec_wrBlock_performed {s : State} {size : BitVec 2} {addr : BitVec 8} (hok : blockAccessOk size addr = true)
    (hrun : s.seq ≠ .run) (wdata : Word) :
    exec (.wrBlock size addr wdata) s =
      .next { s.wrBlock size addr wdata with port := none, reply := .written } := by
  simp [exec_wrBlock, hok, hrun]

/-- RD_BLOCK where it is answered (R101). -/
theorem exec_rdBlock_answered {s : State} {size : BitVec 2} {addr : BitVec 8} (hok : blockAccessOk size addr = true)
    (hrun : s.seq ≠ .run) :
    exec (.rdBlock size addr) s =
      .next { s with port := none, reply := .read (s.rdBlockPins size addr) } := by
  simp [exec_rdBlock, hok, hrun]

/-- Settles O35: the write is performed on one word of `X`, and the window shows its bytes. -/
theorem wrBlockWritesNamedBytes : Obligations.WrBlockWritesNamedBytes := by
  intro size addr wdata s hok hrun
  exact ⟨_, exec_wrBlock_performed hok hrun wdata, windowByte_wrBlock s hok wdata, rfl⟩

/-- Settles O36: refused and held, nothing of the engine changes; performed, the bytes are those of
`windowByte_wrBlock`. -/
theorem wrBlockFrame : Obligations.WrBlockFrame := by
  intro size addr wdata s t ht
  rw [exec_wrBlock] at ht
  split_ifs at ht with hill hrun
  · cases ht
    exact ⟨fun _ _ => rfl, rfl, fun _ => rfl⟩
  · cases ht
    exact ⟨fun _ _ => rfl, rfl, fun _ => rfl⟩
  · cases ht
    refine ⟨fun b hb => ?_, rfl, fun h => absurd h (not_or.mpr ⟨hill, hrun⟩)⟩
    have hok : blockAccessOk size addr = true := by simpa using hill
    exact (windowByte_wrBlock s hok wdata b).trans (if_neg (by omega))

/-- The value RD_BLOCK answers, byte by byte (R101). -/
theorem byteOfWord_rdBlockPins (s : State) (size : BitVec 2) (addr : BitVec 8) {m : Nat} (hm : m < 4) :
    byteOfWord (s.rdBlockPins size addr) m =
      if addr.toNat % 4 ≤ m ∧ m < addr.toNat % 4 + sizeBytes size then
        s.windowByte (BitVec.ofNat 8 (addr.toNat - addr.toNat % 4 + m))
      else 0#8 := by
  rw [State.rdBlockPins, byteOfWord_toByteLanes _ _ hm, byteOfWord_takeBytes, byteOf_blockOffset]
  by_cases hlow : addr.toNat % 4 ≤ m
  · by_cases hhigh : m < addr.toNat % 4 + sizeBytes size
    · have hb : (BitVec.ofNat 8 (addr.toNat - addr.toNat % 4 + m)).toNat = addr.toNat - addr.toNat % 4 + m := by
        have := addr.isLt
        rw [BitVec.toNat_ofNat]
        omega
      have hlt : m - addr.toNat % 4 < sizeBytes size := by omega
      have hbyte : addr.toNat % 4 + (m - addr.toNat % 4) = m := by omega
      have hmod : (addr.toNat - addr.toNat % 4 + m) % 4 = m := by omega
      obtain ⟨hlane, hindex⟩ := (sameWord_iff addr (BitVec.ofNat 8 (addr.toNat - addr.toNat % 4 + m))).mpr
        (by rw [hb]; omega)
      rw [if_pos hlow, if_pos hlt, if_pos ⟨hlow, hhigh⟩, hbyte, State.windowByte, byteOf_blockOffset, hb, hmod, hlane,
        hindex]
    · rw [if_pos hlow, if_neg (by omega), if_neg fun h => hhigh h.2]
  · rw [if_neg hlow, if_neg fun h => hlow h.1]

/-- Settles O37: the read is answered with the named bytes of one word of `X`. -/
theorem rdBlockReadsNamedBytes : Obligations.RdBlockReadsNamedBytes := by
  intro size addr s hok hrun
  exact ⟨_, exec_rdBlock_answered hok hrun, fun _ hm => byteOfWord_rdBlockPins s size addr hm⟩

/-- A read takes from the word just written the bytes just put there (R36). -/
theorem rdBlockPins_wrBlock (s : State) {size : BitVec 2} {addr : BitVec 8} (hok : blockAccessOk size addr = true)
    (wdata : Word) :
    (s.wrBlock size addr wdata).rdBlockPins size addr =
      toByteLanes (blockOffset addr) (fromByteLanes (blockOffset addr) (sizeBytes size) wdata) := by
  have hfit : byteOf (blockOffset addr) + sizeBytes size ≤ 4 :=
    (byteOf_blockOffset addr).symm ▸ byte_add_sizeBytes_le hok
  rw [State.rdBlockPins, State.wrBlock, State.writeWindow, word_setWord, if_pos ⟨rfl, rfl⟩,
    takeBytes_putBytes _ _ hfit, fromByteLanes, takeBytes_takeBytes]

/-- Settles O40: the write leaves SEQ as it was, so the read is answered, with the bytes just written. -/
theorem readAfterWrite : Obligations.ReadAfterWrite := by
  intro size addr wdata s hok hrun
  exact ⟨_, _, exec_wrBlock_performed hok hrun wdata, exec_rdBlock_answered hok hrun,
    congrArg BusReply.read (rdBlockPins_wrBlock s hok wdata), rfl⟩

end Sys2Proof.Machine

/-! ### Command writes and FAULT (R39, R40, R103, R104, R124) -/

namespace Sys2Proof.Machine

/-- Outside RUN a block access does not look at SEQ (R33, R34, R40): in two states that differ in SEQ it leaves two
states that differ in SEQ. -/
theorem exec_wrBlock_of_seq {s t : State} {q q' : Seq} (hq : q ≠ .run) (hq' : q' ≠ .run) {size : BitVec 2}
    {addr : BitVec 8} {wdata : Word} (ht : exec (.wrBlock size addr wdata) { s with seq := q } = .next t) :
    exec (.wrBlock size addr wdata) { s with seq := q' } = .next { t with seq := q' } := by
  rw [exec_wrBlock, if_neg hq] at ht
  rw [exec_wrBlock, if_neg hq']
  split_ifs at ht ⊢ <;> cases ht <;> rfl

theorem exec_rdBlock_of_seq {s t : State} {q q' : Seq} (hq : q ≠ .run) (hq' : q' ≠ .run) {size : BitVec 2}
    {addr : BitVec 8} (ht : exec (.rdBlock size addr) { s with seq := q } = .next t) :
    exec (.rdBlock size addr) { s with seq := q' } = .next { t with seq := q' } := by
  rw [exec_rdBlock, if_neg hq] at ht
  rw [exec_rdBlock, if_neg hq']
  split_ifs at ht ⊢ <;> cases ht <;> rfl

theorem eq_with_seq {s : State} {q : Seq} (hq : s.seq = q) : s = { s with seq := q } := by rw [← hq]

/-- Settles O46: a CMD write meets the FAULT branch of R34 whatever its word; the other accesses do not meet it. -/
theorem accessesInFault : Obligations.AccessesInFault := by
  intro s hfault
  refine ⟨fun v => ?_, fun op r => ?_, exec_rdStatus s, fun size addr wdata t ht => ?_, fun size addr t ht => ?_⟩
  · rw [exec_wrCmd, answerWrite_cmdWrite_fault _ _ hfault]
    rfl
  · rw [exec_instr, answerWrite_cmdWrite_fault _ _ hfault]
    rfl
  · rw [eq_with_seq hfault]
    exact exec_wrBlock_of_seq (q := .idle) (by decide) (by decide) ht
  · rw [eq_with_seq hfault]
    exact exec_rdBlock_of_seq (q := .idle) (by decide) (by decide) ht

/-- The state a command write leaves in the index: held in RUN, refused in FAULT, a fault or acceptance in IDLE
(R34 branch 5, R103). -/
inductive CommandWritten (s : State) : State → Prop
  | held (a : Access) (hrun : s.seq = .run) : CommandWritten s (s.hold a)
  | refused (hfault : s.seq = .fault) : CommandWritten s s.refuse
  | faulted (code : BitVec 4) (hidle : s.seq = .idle) :
      CommandWritten s { s.raiseFault code with port := none, reply := .written }
  | accepted (op : Op) (r : BitVec 8) (hidle : s.seq = .idle) :
      CommandWritten s { s.accept op r with port := none, reply := .written }

/-- A CMD write that performs a fault or an acceptance leaves one of the states of `CommandWritten`. -/
theorem commandWritten_of_cmdWrite {s t : State} {a : Access} {f : State → State}
    (hf : (∃ code, f s = s.raiseFault code) ∨ ∃ op r, f s = s.accept op r)
    (ht : s.answerWrite a (s.cmdWrite f) = .next t) : CommandWritten s t := by
  rcases cmdWrite_cases s f with ⟨hseq, hw⟩ | ⟨hseq, hw⟩ | ⟨hseq, hw⟩ <;> rw [hw] at ht <;> cases ht
  · exact .held a hseq
  · exact .refused hseq
  · rcases hf with ⟨code, hcode⟩ | ⟨op, r, haccept⟩
    · exact hcode ▸ .faulted code hseq
    · exact haccept ▸ .accepted op r hseq

/-- WR_CMD and the three commands are command writes (R61, R103). -/
theorem commandWritten_of_exec {i : Instr} {s t : State} (hi : (∃ v, i = .wrCmd v) ∨ ∃ op r, i = Op.instr op r)
    (ht : exec i s = .next t) : CommandWritten s t := by
  rcases hi with ⟨v, rfl⟩ | ⟨op, r, rfl⟩
  · rw [exec_wrCmd] at ht
    refine commandWritten_of_cmdWrite ?_ ht
    rcases writeCmd_cases s v with ⟨-, hw⟩ | ⟨op, -, -, -, hw⟩ | ⟨op, -, -, -, hw⟩
    · exact .inl ⟨_, hw⟩
    · exact .inl ⟨_, hw⟩
    · exact .inr ⟨_, _, hw⟩
  · rw [exec_instr] at ht
    refine commandWritten_of_cmdWrite ?_ ht
    rcases startCommand_cases s op r with ⟨-, hw⟩ | ⟨-, hw⟩
    · exact .inl ⟨_, hw⟩
    · exact .inr ⟨_, _, hw⟩

/-- The windows are a view of X (R32). -/
theorem windowByte_congr {s t : State} (hx : t.x = s.x) (b : BitVec 8) : t.windowByte b = s.windowByte b := by
  simp only [State.windowByte, State.word, hx]

/-- Window 0 is a view of lane 0 (R31, R32). -/
theorem windowByte_congr_lane0 {s t : State} (hx : t.x.q0 = s.x.q0) {b : BitVec 8} (hb : b.toNat < 0x40) :
    t.windowByte b = s.windowByte b := by
  have hlane : laneOf (blockOffset b) = 0 := laneOf_eq (m := ⟨b.toNat, hb⟩) (by simp)
  have hget : t.x.get 0 = s.x.get 0 := hx
  simp only [State.windowByte, State.word, hlane, hget]

/-- Acceptance leaves lane 0 alone (R104). -/
theorem accept_lane0 (s : State) (op : Op) (r : BitVec 8) : (s.accept op r).x.q0 = s.x.q0 := by
  rw [accept_x]
  split <;> rfl

/-- Acceptance of a command of one lane leaves X alone (R104). -/
theorem accept_x_of_not_batch (s : State) {op : Op} (hop : op ≠ .batchPermute) (r : BitVec 8) :
    (s.accept op r).x = s.x := by rw [accept_x, if_neg hop]

/-- Settles O47: of the four ways a command write ends, only acceptance of a batch touches X, in lanes 1 to 3, and only
fault entry writes ERRCODE. -/
theorem commandWriteFrame : Obligations.CommandWriteFrame := by
  intro i s t hi ht
  cases commandWritten_of_exec hi ht with
  | held a hrun => exact ⟨fun _ _ => rfl, fun _ _ => rfl, fun _ => rfl, rfl, fun _ => rfl, by simp [hrun]⟩
  | refused hfault =>
    exact ⟨fun _ _ => rfl, fun _ _ => rfl, fun _ => rfl, rfl, fun _ => rfl,
      fun _ => eq_with_seq (s := s.refuse) hfault⟩
  | faulted code hidle =>
    exact ⟨fun _ _ => rfl, fun _ _ => rfl, fun h => absurd hidle h, rfl, fun h => absurd rfl h, fun _ => rfl⟩
  | accepted op r hidle =>
    refine ⟨fun b hb => windowByte_congr_lane0 (accept_lane0 s op r) hb, fun hnot => ?_, fun h => absurd hidle h, rfl,
      fun _ => rfl, nofun⟩
    have hop : op ≠ .batchPermute := fun h => hnot ⟨hidle, rfl, beq_iff_eq.mpr h⟩
    exact windowByte_congr (accept_x_of_not_batch s hop r)

/-- Settles O32: in FAULT the sequencer has no move and a served access is refused, read or a window write. -/
theorem faultIsSticky : Obligations.FaultIsSticky := by
  intro s t hfault hreset hstep
  cases step_transition hstep with
  | reset _ h => exact absurd h hreset
  | quiet => exact ⟨hfault, rfl, rfl, rfl, rfl, rfl, rfl, rfl⟩
  | completed _ _ hrun | round _ _ hrun => exact nomatch hfault.symm.trans hrun
  | served a h _ _ ht =>
    cases ht with
    | refused | read | windowWritten => exact ⟨hfault, rfl, rfl, rfl, rfl, rfl, rfl, rfl⟩
    | held _ hrun => exact nomatch hfault.symm.trans hrun
    | accepted _ _ hidle | oddRounds _ _ hidle | illegalCommand _ hidle => exact nomatch hfault.symm.trans hidle

/-! ### The step when an access stands on the port or is presented (R38, R39, R42, R141) -/

section Steps

variable {s : State} {a : Access} {rest : List HostEvent}

/-- An access on the port waits in RUN and is served otherwise, before any later event of the host but a reset. -/
theorem turn_of_port (hport : s.port = some a) (hreset : ¬ s.resetNext) :
    s.turn = if s.seq = .run then .sequencer s.passWait else .serve a { s with port := none } := by
  obtain ⟨x, p, rc, ph, opadd, opbatch, seq, dn, errcode, port, reply, host, refusals⟩ := s
  cases hport
  rcases host with _ | ⟨e, rest⟩
  · rfl
  · cases e with
    | reset => exact absurd rfl hreset
    | access | wait | waitDone => rfl

theorem step_of_port_held (hport : s.port = some a) (hreset : ¬ s.resetNext) (hrun : s.seq = .run) :
    step s = .next s.passWait.sequencerTurn := by
  rw [step, turn_of_port hport hreset, if_pos hrun]

theorem step_of_port_served (hport : s.port = some a) (hreset : ¬ s.resetNext) (hrun : s.seq ≠ .run) :
    step s = serve a { s with port := none } := by
  rw [step, turn_of_port hport hreset, if_neg hrun]

theorem step_of_reset (hhost : s.host = .reset :: rest) : step s = .next (State.resetStep { s with host := rest }) := by
  simp [step, State.turn, hhost]

theorem step_of_access (hport : s.port = none) (hhost : s.host = .access a :: rest) :
    step s = serve a { s with host := rest } := by
  simp [step, State.turn, hport, hhost]

@[simp] theorem sequencer_port (s : State) : s.sequencer.port = s.port := by
  rcases sequencer_cases s with ⟨-, h⟩ | ⟨-, -, h⟩ | ⟨-, -, h⟩ <;> rw [h] <;> rfl

@[simp] theorem passWait_port (s : State) : s.passWait.port = s.port := by
  unfold State.passWait
  split <;> rfl

end Steps

theorem serve_of_decode {a : Access} {i : Instr} (hi : decodeAccess a = .ok i) (s : State) : serve a s = exec i s := by
  rw [serve, hi]

/-- Settles O24: the access the turn serves is decoded and its instruction run. -/
theorem stepRunsDecodedInstruction : Obligations.StepRunsDecodedInstruction := by
  refine ⟨fun s a i rest hi hport hhost => ?_, fun s a i hi hport hrun hreset => ?_⟩
  · rw [step_of_access hport hhost, serve_of_decode hi]
  · rw [step_of_port_served hport hreset hrun, serve_of_decode hi]

/-- Settles O29: the sequencer's move leaves the port alone, and the reset step finds the access there. -/
theorem heldAccessServedAfterCompletion : Obligations.HeldAccessServedAfterCompletion := by
  intro s a hport
  refine ⟨fun hreset hrun => ?_, fun hreset hrun => step_of_port_served hport hreset hrun, fun hreset => ?_⟩
  · have hkept : s.passWait.sequencer.port = some a := by simp [hport]
    rw [step_of_port_held hport hreset hrun, State.sequencerTurn, ← hkept]
  · obtain ⟨rest, hhost⟩ := List.head?_eq_some_iff.mp hreset
    rw [step_of_reset hhost, hhost]
    simp [State.resetStep, hport]

end Sys2Proof.Machine

/-! ### The row-vectorized rounds are the permutation (R89) -/

namespace Sys2Proof

/-- A column-phase row round leaves the column phase in diagonal order (R89 (a)). -/
theorem rowround_columns (x : Block) : rowround x false = diagonalOrder (colround x) := rfl

/-- A diagonal-phase row round takes diagonal order back to the diagonal phase (R89 (b)). -/
theorem rowround_diagonals (x : Block) : rowround (diagonalOrder x) true = diaground x := rfl

/-- Two row rounds are a double round (R89 (c)). -/
theorem rowround_rowround (x : Block) : rowround (rowround x false) true = doubleround x := by
  rw [rowround_columns, rowround_diagonals]
  rfl

theorem rowRounds_two_mul (n : Nat) (x : Block) : rowRounds (2 * n) false x = doubleRoundsWith qr n x := by
  induction n generalizing x with
  | zero => rfl
  | succ n ih =>
    calc rowRounds (2 * (n + 1)) false x
        = rowRounds (2 * n) false (rowround (rowround x false) true) := rfl
      _ = doubleRoundsWith qr n (doubleround x) := by rw [rowround_rowround, ih]

/-- An even number of alternating row rounds is PERMUTE (R83, R89). -/
theorem rowRounds_eq_permute {r : Nat} (hr : r % 2 = 0) (x : Block) : rowRounds r false x = permute x r := by
  have hhalf : 2 * (r / 2) = r := by omega
  rw [permute, ← rowRounds_two_mul, hhalf]

/-- Word by word, on each word (R7). -/
@[simp] theorem Quad.word_zipWords {α : Type} (f : α → α → α) (x y : Matrix4 α) (j : Fin 16) :
    (Quad.zipWords f x y).word j = f (x.word j) (y.word j) := by
  simp [Quad.zipWords, Quad.word]

/-! ### A running command with nothing else presented (R90, R91, R93)

With no host event left each step is the sequencer's, whether an access is held on the port or not. -/

namespace Machine

section Runs

variable {s t u : State} {m n : Nat}

theorem stepN_succ_of_step (hstep : step s = .next t) : stepN (n + 1) s = stepN n t := by
  simp [stepN, hstep, nextState]

/-- Steps in a row are steps one after the other. -/
theorem stepN_add_of_stepN (hfirst : stepN m s = some t) : stepN (m + n) s = stepN n t := by
  induction m generalizing s with
  | zero =>
    cases hfirst
    rw [Nat.zero_add]
  | succ m ih =>
    rw [Nat.add_right_comm, stepN]
    rw [stepN] at hfirst
    cases hnext : nextState (step s) with
    | none => simp [hnext] at hfirst
    | some v =>
      rw [hnext] at hfirst
      exact ih hfirst

theorem stepN_snoc (hfirst : stepN n s = some t) (hstep : step t = .next u) : stepN (n + 1) s = some u := by
  rw [stepN_add_of_stepN hfirst, stepN_succ_of_step hstep, stepN]

end Runs

/-- The move of the sequencer that is a round step, with no `ack` (R90). -/
def State.roundTurn (s : State) : State := { s.roundStep with reply := .noAck }

/-- The move of the sequencer that is the completion step, with no `ack` (R93). -/
def State.completionTurn (s : State) : State := { s.completionStep with reply := .noAck }

/-- The state completion leaves when the rounds still to run are run from `s` without interruption (R91). -/
def State.commandDone (s : State) : State := (State.roundTurn^[s.rc.toNat] s).completionTurn

section RunningAlone

variable {s : State}

theorem step_of_no_event (hhost : s.host = []) (hrun : s.seq = .run) : step s = .next s.sequencerTurn := by
  cases hport : s.port with
  | none => simp [step, State.turn, hhost, hport]
  | some a => simp [step, State.turn, State.passWait, hhost, hport, hrun]

theorem step_round (hhost : s.host = []) (hrun : s.seq = .run) (hrc : s.rc ≠ 0#8) : step s = .next s.roundTurn := by
  rw [step_of_no_event hhost hrun, State.sequencerTurn, State.sequencer, hrun]
  simp only [if_neg hrc]
  rfl

theorem step_completion (hhost : s.host = []) (hrun : s.seq = .run) (hrc : s.rc = 0#8) :
    step s = .next s.completionTurn := by
  rw [step_of_no_event hhost hrun, State.sequencerTurn, State.sequencer, hrun]
  simp only [if_pos hrc]
  rfl

/-- What each round step leaves unchanged is unchanged after any number of them. -/
theorem roundTurns_unchanged {α : Type} {g : State → α} (hg : ∀ s, g s.roundTurn = g s) (m : Nat) (s : State) :
    g (State.roundTurn^[m] s) = g s := by
  induction m with
  | zero => rfl
  | succ m ih => rw [Function.iterate_succ_apply', hg, ih]

section Fields

variable (s : State) (m : Nat)

@[simp] theorem roundTurns_p : (State.roundTurn^[m] s).p = s.p := roundTurns_unchanged (fun _ => rfl) m s
@[simp] theorem roundTurns_opadd : (State.roundTurn^[m] s).opadd = s.opadd := roundTurns_unchanged (fun _ => rfl) m s
@[simp] theorem roundTurns_opbatch : (State.roundTurn^[m] s).opbatch = s.opbatch :=
  roundTurns_unchanged (fun _ => rfl) m s
@[simp] theorem roundTurns_seq : (State.roundTurn^[m] s).seq = s.seq := roundTurns_unchanged (fun _ => rfl) m s
@[simp] theorem roundTurns_port : (State.roundTurn^[m] s).port = s.port := roundTurns_unchanged (fun _ => rfl) m s
@[simp] theorem roundTurns_host : (State.roundTurn^[m] s).host = s.host := roundTurns_unchanged (fun _ => rfl) m s

@[simp] theorem commandDone_port : s.commandDone.port = s.port := roundTurns_port s _
@[simp] theorem commandDone_host : s.commandDone.host = s.host := roundTurns_host s _
@[simp] theorem commandDone_seq : s.commandDone.seq = .idle := rfl

end Fields

theorem roundTurns_rc {m : Nat} (hm : m ≤ s.rc.toNat) : (State.roundTurn^[m] s).rc.toNat = s.rc.toNat - m := by
  induction m with
  | zero => rfl
  | succ m ih =>
    have hprev := ih (by omega)
    have hdown : (State.roundTurn^[m] s).roundTurn.rc = (State.roundTurn^[m] s).rc - 1#8 := rfl
    rw [Function.iterate_succ_apply', hdown]
    bv_omega

/-- RC is not 0 before the last of its rounds. -/
theorem roundTurns_rc_ne_zero {m : Nat} (hm : m < s.rc.toNat) : (State.roundTurn^[m] s).rc ≠ 0#8 := by
  intro h
  have hrc := roundTurns_rc (s := s) (m := m) (by omega)
  rw [h, BitVec.toNat_zero] at hrc
  omega

/-- RC is 0 after its rounds. -/
theorem roundTurns_rc_eq_zero (s : State) : (State.roundTurn^[s.rc.toNat] s).rc = 0#8 :=
  BitVec.eq_of_toNat_eq ((roundTurns_rc le_rfl).trans (Nat.sub_self _))

/-- While rounds remain, each step runs one (R90, R91). -/
theorem stepN_rounds (hhost : s.host = []) (hrun : s.seq = .run) {m : Nat} (hm : m ≤ s.rc.toNat) :
    stepN m s = some (State.roundTurn^[m] s) := by
  induction m with
  | zero => rfl
  | succ m ih =>
    rw [Function.iterate_succ_apply']
    exact stepN_snoc (ih (by omega)) (step_round (by simp [hhost]) (by simp [hrun]) (roundTurns_rc_ne_zero hm))

/-- RC rounds and the completion step end the command (R91, R93). -/
theorem stepN_commandDone (hhost : s.host = []) (hrun : s.seq = .run) :
    stepN (s.rc.toNat + 1) s = some s.commandDone :=
  stepN_snoc (stepN_rounds hhost hrun le_rfl)
    (step_completion (by simp [hhost]) (by simp [hrun]) (roundTurns_rc_eq_zero s))

/-- The rounds run from acceptance on are counted by the data-path invariant (R90, R112). -/
theorem roundTurns_ranRounds (hstart : s.ranRounds 0) {m : Nat} (hm : m ≤ s.rc.toNat) :
    (State.roundTurn^[m] s).ranRounds m := by
  induction m with
  | zero => exact hstart
  | succ m ih =>
    rw [Function.iterate_succ_apply']
    exact roundStep_ranRounds (ih (by omega)) (roundTurns_rc_ne_zero hm)

/-- A command of one lane leaves the other lanes alone (R94, R95). -/
theorem roundTurns_otherLane (hsingle : s.opbatch = false) {k : Fin 4} (hk : k ≠ 0) (m : Nat) :
    (State.roundTurn^[m] s).x.get k = s.x.get k := by
  induction m with
  | zero => rfl
  | succ m ih =>
    rw [Function.iterate_succ_apply', ← ih]
    show (State.roundStep _).x.get k = _
    rw [roundStep_x, roundTurns_opbatch, hsingle]
    exact Quad.get_set_ne _ 0 k _ hk

end RunningAlone

/-! ### The results of the commands (R94, R95, R112) -/

section Results

variable {s : State}

/-- X at completion, from X after the last round (R93). -/
theorem commandDone_x (s : State) :
    s.commandDone.x =
      if s.opadd then
        { (State.roundTurn^[s.rc.toNat] s).x with
          q0 := addWords (State.roundTurn^[s.rc.toNat] s).x.q0 s.p }
      else (State.roundTurn^[s.rc.toNat] s).x := by
  show (State.completionStep _).x = _
  rw [completionStep_x, roundTurns_opadd, roundTurns_p]

/-- A command's rounds permute lane 0 of what P holds (R89, R90). -/
theorem roundTurns_lane0 (hstart : s.ranRounds 0) (heven : roundsOk s.rc = true) (hsingle : s.opbatch = false) :
    (State.roundTurn^[s.rc.toNat] s).x.q0 = permute s.p s.rc.toNat := by
  obtain ⟨-, -, -, hlane, -⟩ := roundTurns_ranRounds hstart le_rfl
  rw [hlane (by simp [hsingle]), roundTurns_p, rowRounds_eq_permute ((roundsOk_iff _).mp heven)]

/-- The lanes other than 0 after a command of one lane (R94, R95). -/
theorem commandDone_otherLane (hsingle : s.opbatch = false) {k : Fin 4} (hk : k ≠ 0) :
    s.commandDone.x.get k = s.x.get k := by
  have hrounds := roundTurns_otherLane hsingle hk s.rc.toNat
  rw [commandDone_x]
  split
  · exact (Quad.get_set_ne _ 0 k _ hk).trans hrounds
  · exact hrounds

/-- Lane 0 after PERMUTE_ONLY (R94). -/
theorem commandDone_lane0 (hstart : s.ranRounds 0) (heven : roundsOk s.rc = true) (hsingle : s.opbatch = false)
    (hadd : s.opadd = false) : s.commandDone.x.get 0 = permute s.p s.rc.toNat := by
  rw [commandDone_x, hadd]
  exact roundTurns_lane0 hstart heven hsingle

/-- Lane 0 after PERMUTE_AND_ADD (R95). -/
theorem commandDone_lane0_added (hstart : s.ranRounds 0) (heven : roundsOk s.rc = true) (hsingle : s.opbatch = false)
    (hadd : s.opadd = true) : s.commandDone.x.get 0 = addWords (permute s.p s.rc.toNat) s.p := by
  rw [commandDone_x, if_pos hadd, roundTurns_lane0 hstart heven hsingle]
  rfl

/-- Every lane after BATCH_PERMUTE (R112). -/
theorem commandDone_batchLane (hstart : s.ranRounds 0) (heven : roundsOk s.rc = true) (hbatch : s.opbatch = true)
    (hadd : s.opadd = false) (k : Fin 4) : s.commandDone.x.get k = permute ((promote s.p).get k) s.rc.toNat := by
  obtain ⟨-, -, -, -, hlanes⟩ := roundTurns_ranRounds hstart le_rfl
  rw [commandDone_x, hadd, if_neg Bool.false_ne_true, hlanes (by simp [hbatch]) k, roundTurns_p,
    rowRounds_eq_permute ((roundsOk_iff _).mp heven)]

/-- The words after a command of one lane, given lane 0 (R94, R95). -/
theorem commandDone_word (hsingle : s.opbatch = false) {b : Block} (hlane : s.commandDone.x.get 0 = b) (k : Fin 4)
    (j : Fin 16) : s.commandDone.word k j = if k = 0 then b.word j else s.word k j := by
  unfold State.word
  by_cases hk : k = 0
  · rw [if_pos hk, hk, hlane]
  · rw [if_neg hk, commandDone_otherLane hsingle hk]

end Results

/-! ### A word read right after a command (R39, R42) -/

/-- A host's command event presents the CMD write of its word (R61). -/
theorem commandEvent_eq (op : Op) (r : BitVec 8) : commandEvent op r = .access (cmdAccess (op.commandWord r)) := by
  have hlanes : toByteLanes 0x100#9 (op.commandWord r) = op.commandWord r := BitVec.shiftLeft_zero _
  rw [commandEvent, wr32, wrEvent, hlanes]
  rfl

/-- The address field of a word access to word `j` of window `k` (R31). -/
def wordAddr (k : Fin 4) (j : Fin 16) : BitVec 8 := BitVec.ofNat 8 (64 * k.val + 4 * j.val)

section WordAccess

variable (k : Fin 4) (j : Fin 16)

theorem blockOffset_wordAddr : (blockOffset (wordAddr k j)).toNat = 64 * k.val + 4 * j.val :=
  blockOffset_window k ⟨4 * j.val, by omega⟩

theorem wordOffset_eq : wordOffset k j = blockOffset (wordAddr k j) := by
  refine BitVec.eq_of_toNat_eq ?_
  rw [blockOffset_wordAddr, wordOffset, BitVec.toNat_ofNat]
  omega

theorem rd32_eq : rd32 (wordOffset k j) = .access (encode (.rdBlock 2#2 (wordAddr k j))) := by
  rw [rd32, rdEvent, wordOffset_eq]
  rfl

theorem blockAccessOk_wordAddr : blockAccessOk 2#2 (wordAddr k j) = true := by
  have haligned : (wordAddr k j).toNat % sizeBytes 2#2 = 0 := by
    rw [← blockOffset_toNat, blockOffset_wordAddr]
    show (64 * k.val + 4 * j.val) % 4 = 0
    omega
  have hill := mt (blockAccessOk_eq_false_iff 2#2 (wordAddr k j)).mp (by simp [haligned])
  simpa using hill

/-- A word read returns the word (R101). -/
theorem rdBlockPins_wordAddr (s : State) : s.rdBlockPins 2#2 (wordAddr k j) = s.word k j := by
  have ha : (blockOffset (wordAddr k j)).toNat = 64 * k.val + (⟨4 * j.val, by omega⟩ : Fin 64).val :=
    blockOffset_wordAddr k j
  have hword : wordOf (blockOffset (wordAddr k j)) = j :=
    (wordOf_eq ha).trans (Fin.ext (Nat.mul_div_cancel_left j.val (by omega)))
  have hbyte : byteOf (blockOffset (wordAddr k j)) = 0 := (byteOf_eq ha).trans (Nat.mul_mod_right 4 j.val)
  have hsize : sizeBytes 2#2 = 4 := rfl
  rw [State.rdBlockPins, toByteLanes, laneOf_eq ha, hword, hbyte, hsize, takeBytes_zero_four]
  exact BitVec.shiftLeft_zero _

end WordAccess

/-- The state in which `a` is held behind a command just accepted in `s`, the host presenting nothing more. -/
def State.heldBehind (s : State) (op : Op) (r : BitVec 8) (a : Access) : State :=
  { s.accept op r with port := some a, reply := .noAck, host := [] }

section AcceptedThenHeld

variable {s : State} {op : Op} {r : BitVec 8}

/-- A command with an even count is accepted in IDLE (R104). -/
theorem exec_instr_accepted (hidle : s.seq = .idle) (heven : roundsOk r = true) :
    exec (op.instr r) s = .next { s.accept op r with port := none, reply := .written } := by
  have hstart : s.startCommand op r = s.accept op r := if_neg (ne_true_of_eq_false (lsb_eq_false_of_roundsOk heven))
  rw [exec_instr, answerWrite_cmdWrite_idle _ _ hidle, hstart]

/-- A command accepted in one step, the read behind it held in the next (R42). -/
theorem stepN_heldBehind {size : BitVec 2} {addr : BitVec 8} (hidle : s.seq = .idle) (hport : s.port = none)
    (heven : roundsOk r = true) (hok : blockAccessOk size addr = true)
    (hhost : s.host = [.access (cmdAccess (op.commandWord r)), .access (encode (.rdBlock size addr))]) :
    stepN 2 s = some (s.heldBehind op r (encode (.rdBlock size addr))) := by
  have haccept : step s = .next
      { s.accept op r with
        port := none, reply := .written, host := [.access (encode (.rdBlock size addr))] } := by
    rw [step_of_access hport hhost, serve_of_decode (decodeAccess_commandWord op r)]
    exact exec_instr_accepted hidle heven
  rw [stepN_succ_of_step haccept]
  refine stepN_snoc (n := 0) rfl ?_
  rw [step_of_access rfl rfl, serve_of_decode (decodeAccess_encode_rdBlock size addr), exec_rdBlock]
  simp [hok, State.hold, State.heldBehind]

end AcceptedThenHeld

section HeldRead

variable {s : State} {a : Access}

/-- A held access stands on the port with no `ack` until completion (R39). -/
theorem stepN_held (hhost : s.host = []) (hrun : s.seq = .run) (hport : s.port = some a) (hreply : s.reply = .noAck)
    {n : Nat} (hn : n ≤ s.rc.toNat + 1) : ∃ u, stepN n s = some u ∧ u.port = some a ∧ u.reply = .noAck := by
  rcases Nat.lt_or_ge s.rc.toNat n with hlast | hround
  · obtain rfl : n = s.rc.toNat + 1 := by omega
    exact ⟨_, stepN_commandDone hhost hrun, (commandDone_port s).trans hport, rfl⟩
  · refine ⟨_, stepN_rounds hhost hrun hround, (roundTurns_port s n).trans hport, ?_⟩
    cases n with
    | zero => exact hreply
    | succ n =>
      rw [Function.iterate_succ_apply']
      rfl

/-- A held read is answered in the step after completion, from X as completion leaves it (R39). -/
theorem stepN_heldRead {size : BitVec 2} {addr : BitVec 8} (hok : blockAccessOk size addr = true) (hhost : s.host = [])
    (hrun : s.seq = .run) (hport : s.port = some (encode (.rdBlock size addr))) :
    stepN (s.rc.toNat + 2) s =
      some { s.commandDone with port := none, reply := .read (s.commandDone.rdBlockPins size addr) } := by
  refine stepN_snoc (stepN_commandDone hhost hrun) ?_
  rw [step_of_port_served ((commandDone_port s).trans hport) (by simp [State.resetNext, hhost]) nofun,
    serve_of_decode (decodeAccess_encode_rdBlock size addr)]
  exact exec_rdBlock_answered hok (by simp)

end HeldRead

/-- Settles O54: the command is accepted, the read is held behind its rounds and its completion step, and then answered
from the command's result. -/
theorem readAfterCommandReturnsResult : Obligations.ReadAfterCommandReturnsResult := by
  intro s op r k j hidle hport hhost hr
  have heven : roundsOk r = true := (roundsOk_iff r).mpr hr
  have hok := blockAccessOk_wordAddr k j
  have haccess : (⟨false, 2#2, wordOffset k j, 0#32⟩ : Access) = encode (.rdBlock 2#2 (wordAddr k j)) :=
    HostEvent.access.inj (rd32_eq k j)
  rw [commandEvent_eq, rd32_eq] at hhost
  rw [haccess]
  have htwo := stepN_heldBehind hidle hport heven hok hhost
  refine ⟨fun n h2 hn => ?_, ?_⟩
  · obtain ⟨m, rfl⟩ := Nat.exists_eq_add_of_le h2
    rw [stepN_add_of_stepN htwo]
    exact stepN_held rfl rfl rfl rfl (show m ≤ r.toNat + 1 by omega)
  · have hstart : (s.heldBehind op r (encode (.rdBlock 2#2 (wordAddr k j)))).ranRounds 0 := accept_ranRounds s op heven
    have hread := stepN_heldRead (s := s.heldBehind op r (encode (.rdBlock 2#2 (wordAddr k j)))) hok rfl rfl rfl
    have hsteps : r.toNat + 4 = 2 + (r.toNat + 2) := by omega
    rw [hsteps]
    refine ⟨_, (stepN_add_of_stepN htwo).trans hread, rfl, rfl, commandDone_host _, congrArg BusReply.read ?_⟩
    rw [rdBlockPins_wordAddr]
    cases op with
    | permuteOnly => exact commandDone_word rfl (commandDone_lane0 hstart heven rfl rfl) k j
    | permuteAndAdd =>
      rw [commandDone_word rfl (commandDone_lane0_added hstart heven rfl rfl) k j, addWords, Quad.word_zipWords]
      rfl
    | batchPermute => exact congrArg (Quad.word · j) (commandDone_batchLane hstart heven rfl rfl k)

end Machine

end Sys2Proof

/-! ### Encoding what was decoded (R50 to R54)

What the two decoders make of an access, said once: a row's instruction, whose encoding is the access, or no row. -/

namespace Sys2Proof

/-- The access as the encoder drives it: a read drives no write data. -/
def Access.driven (a : Access) : Access := { a with wdata := if a.we then a.wdata else 0#32 }

section Driven

variable (a : Access)

@[simp] theorem driven_descriptor : a.driven.descriptor = a.descriptor := rfl

theorem driven_of_write (hwe : a.we = true) : a.driven = a := by
  rw [Access.driven, if_pos hwe]

theorem driven_of_read (hwe : a.we = false) : a.driven = { a with wdata := 0#32 } := by simp [Access.driven, hwe]

end Driven

section Rows

/-- A word that fits a row has the row's value at every bit the row tests (R52, R54). -/
theorem getLsbD_of_fits {n : Nat} {r : Row n} {w : BitVec n} (h : r.fits w = true) {m : Nat}
    (hm : r.mask.getLsbD m = true) : w.getLsbD m = r.pattern.getLsbD m := by
  rw [← beq_iff_eq.mp h, BitVec.getLsbD_and, hm, Bool.and_true]

variable {a : Access}

/-- Bit 8 of a descriptor is the top address bit: it says whether the offset is outside the windows (R31, R51). -/
theorem descriptor_bit8 (a : Access) : a.descriptor.getLsbD 8 = decide (0x100 ≤ a.addr.toNat) := by
  have h : a.descriptor.getLsbD 8 = a.addr.getLsbD 8 := BitVec.getLsbD_append
  rw [h]
  exact BitVec.msb_eq_decide a.addr

/-- The rows of the block accesses test `addr[8] = 0`, so no register access fits one (R52). -/
theorem not_fits_of_registers {r : Row 12} (hmask : r.mask.getLsbD 8 = true) (hpattern : r.pattern.getLsbD 8 = false)
    (hhigh : 0x100 ≤ a.addr.toNat) : ¬ r.fits a.descriptor = true := fun h => by
  have hbit := getLsbD_of_fits h hmask
  rw [descriptor_bit8, hpattern, decide_eq_false_iff_not] at hbit
  exact hbit hhigh

/-- An offset inside the windows is its low eight bits (R31). -/
theorem eq_append_of_windows {off : BitVec 9} (h : off.toNat < 0x100) : off = 0#1 ++ off.setWidth 8 := by
  refine BitVec.eq_of_toNat_eq ((Eq.trans ?_ (Machine.blockOffset_toNat (off.setWidth 8)).symm))
  rw [BitVec.toNat_setWidth, Nat.mod_eq_of_lt h]

end Rows

section Decoders

variable {a : Access}

/-- Only WR_CMD's descriptor is read as WR_CMD (R52). -/
theorem eq_of_decodeBus_wrCmd {d : BitVec 12} {w v : Word} (h : decodeBus d w = .ok (.wrCmd v)) : d = 0xD00#12 := by
  unfold decodeBus at h
  split_ifs at h with hcmd
  · exact (rowWrCmd_fits_iff d).mp hcmd
  all_goals cases h

/-- Format CMD has no say over an access with another descriptor than WR_CMD's (R50). -/
theorem decodeAccess_eq_decodeBus (h : a.descriptor ≠ 0xD00#12) :
    decodeAccess a = decodeBus a.descriptor a.wdata := by
  unfold decodeAccess
  cases hbus : decodeBus a.descriptor a.wdata with
  | error e => rfl
  | ok i =>
    cases i with
    | wrCmd v => exact absurd (eq_of_decodeBus_wrCmd hbus) h
    | rdStatus | wrBlock | rdBlock | permuteOnly | permuteAndAdd | batchPermute => rfl

theorem descriptor_ne_of_read (hread : a.we = false) : a.descriptor ≠ 0xD00#12 := fun h => by
  have hwe := descriptor_we a
  rw [h, hread] at hwe
  cases hwe

/-- The write data of a read is not looked at (R19, R52). -/
theorem decodeBus_of_read (hread : a.we = false) (w : Word) :
    decodeBus a.descriptor w = decodeBus a.descriptor a.wdata := by
  have hcmd : ¬ rowWrCmd.fits a.descriptor = true := mt (rowWrCmd_fits_iff _).mp (descriptor_ne_of_read hread)
  have hwr : ¬ rowWrBlock.fits a.descriptor = true := fun h => by simp [we_of_rowWrBlock_fits a h] at hread
  simp only [decodeBus, if_neg hcmd, if_neg hwr]

/-- A read is decoded as the encoder drives it. -/
theorem decodeAccess_of_read (hread : a.we = false) : decodeAccess a = decodeAccess { a with wdata := 0#32 } := by
  have hne := descriptor_ne_of_read hread
  rw [decodeAccess_eq_decodeBus hne, ← decodeBus_of_read hread 0#32]
  exact (decodeAccess_eq_decodeBus (a := { a with wdata := 0#32 }) hne).symm

/-- A register access other than a CMD write or a STATUS read is of no row (R52). -/
theorem decodeAccess_noBusRow (hhigh : 0x100 ≤ a.addr.toNat) (hcmd : a.descriptor ≠ 0xD00#12)
    (hstatus : a.descriptor ≠ 0x504#12) : decodeAccess a = .error .noBusRow := by
  rw [decodeAccess_eq_decodeBus hcmd, decodeBus, if_neg (mt (rowWrCmd_fits_iff _).mp hcmd),
    if_neg (mt (rowRdStatus_fits_iff _).mp hstatus), if_neg (not_fits_of_registers rfl rfl hhigh),
    if_neg (not_fits_of_registers rfl rfl hhigh)]

/-- What the decoders answer to an access: an instruction it is the encoding of, or a rejection of a register access
that is neither a CMD write nor a STATUS read (R50, R52). -/
inductive Decoded (a : Access) : Except Reject Instr → Prop
  | row (i : Instr) (ha : encode i = a.driven) : Decoded a (.ok i)
  | noRow (e : Reject) (hhigh : 0x100 ≤ a.addr.toNat) (hcmd : a.descriptor ≠ 0xD00#12)
      (hstatus : a.descriptor ≠ 0x504#12) : Decoded a (.error e)

/-- A CMD write is read as its command, or as WR_CMD when its word is none (R50, R61). -/
theorem decoded_cmdAccess (v : Word) : Decoded (cmdAccess v) (decodeAccess (cmdAccess v)) := by
  rcases decodeCmd_cases v with ⟨op, r, rfl, -⟩ | ⟨hword, -⟩
  · rw [decodeAccess_commandWord]
    exact .row _ (encode_instr op r)
  · rw [decodeAccess_cmdAccess hword]
    exact .row _ rfl

theorem decoded_status (h : a.descriptor = 0x504#12) : Decoded a (decodeAccess a) := by
  have hread : a.we = false := (descriptor_we a).symm.trans (congrArg (BitVec.getLsbD · 11) h)
  have ha : encode .rdStatus = { a with wdata := 0#32 } := by
    rw [encode, ← h]
    exact ofDescriptor_descriptor { a with wdata := 0#32 }
  rw [decodeAccess_of_read hread, ← ha]
  exact .row .rdStatus (ha.trans (driven_of_read a hread).symm)

theorem decoded_block (h : a.addr.toNat < 0x100) : Decoded a (decodeAccess a) := by
  obtain ⟨we, size, off, wdata⟩ := a
  have haddr := eq_append_of_windows h
  cases we with
  | true =>
    have ha : encode (.wrBlock size (off.setWidth 8) wdata) = ⟨true, size, off, wdata⟩ := by rw [encode, ← haddr]
    rw [← ha, decodeAccess_encode_wrBlock]
    exact .row _ rfl
  | false =>
    have ha : encode (.rdBlock size (off.setWidth 8)) = ⟨false, size, off, 0#32⟩ := by rw [encode, ← haddr]
    rw [decodeAccess_of_read rfl, ← ha, decodeAccess_encode_rdBlock]
    exact .row _ ha

/-- Every access is decoded in one of the ways of `Decoded`. -/
theorem decodeAccess_decoded (a : Access) : Decoded a (decodeAccess a) := by
  rcases Nat.lt_or_ge a.addr.toNat 0x100 with hlow | hhigh
  · exact decoded_block hlow
  by_cases hcmd : a.descriptor = 0xD00#12
  · rw [eq_cmdAccess_of_descriptor a hcmd]
    exact decoded_cmdAccess a.wdata
  by_cases hstatus : a.descriptor = 0x504#12
  · exact decoded_status hstatus
  · rw [decodeAccess_noBusRow hhigh hcmd hstatus]
    exact .noRow _ hhigh hcmd hstatus

/-- The encoder undoes the decoder (R50 to R54). -/
theorem encode_of_decodeAccess {i : Instr} (h : decodeAccess a = .ok i) : encode i = a.driven := by
  have hdecoded := decodeAccess_decoded a
  rw [h] at hdecoded
  cases hdecoded with
  | row _ ha => exact ha

end Decoders

section Encoded

variable (size : BitVec 2) (addr : BitVec 8) (w : Word)

/-- WR_CMD through format BUS alone (R52). -/
theorem decodeBus_encode_wrCmd (v : Word) :
    decodeBus (encode (.wrCmd v)).descriptor (encode (.wrCmd v)).wdata = .ok (.wrCmd v) := by
  rw [encode, cmdAccess_descriptor]
  rfl

/-- WR_BLOCK through format BUS alone (R52). -/
theorem decodeBus_encode_wrBlock :
    decodeBus (encode (.wrBlock size addr w)).descriptor w = .ok (.wrBlock size addr w) :=
  (decodeAccess_eq_decodeBus (descriptor_ne_of_block _ rfl rfl)).symm.trans (decodeAccess_encode_wrBlock size addr w)

/-- RD_BLOCK through format BUS alone, whatever the write data (R52). -/
theorem decodeBus_encode_rdBlock : decodeBus (encode (.rdBlock size addr)).descriptor w = .ok (.rdBlock size addr) :=
  calc decodeBus (encode (.rdBlock size addr)).descriptor w
      = decodeBus (encode (.rdBlock size addr)).descriptor (encode (.rdBlock size addr)).wdata :=
        decodeBus_of_read rfl w
    _ = decodeAccess (encode (.rdBlock size addr)) :=
        (decodeAccess_eq_decodeBus (descriptor_ne_of_read rfl)).symm
    _ = .ok (.rdBlock size addr) := decodeAccess_encode_rdBlock size addr

/-- A command is read back from its encoding (R61). -/
theorem decodeAccess_encode_instr (op : Op) (r : BitVec 8) : decodeAccess (encode (op.instr r)) = .ok (op.instr r) := by
  rw [encode_instr, decodeAccess_commandWord]

/-- A word that format CMD rejects is no command word (R54, R56). -/
theorem ne_commandWord_of_decodeCmd {v : Word} (h : ∀ j, decodeCmd v ≠ .ok j) (op : Op) (r : BitVec 8) :
    v ≠ op.commandWord r := by
  rintro rfl
  exact h _ (decodeCmd_commandWord op r)

/-- Every instruction but a WR_CMD of a command word is read back from its encoding (R50). -/
theorem decodeAccess_encode {i : Instr} (h : ∀ v j, i = .wrCmd v → decodeCmd v ≠ .ok j) :
    decodeAccess (encode i) = .ok i := by
  cases i with
  | wrCmd v => exact decodeAccess_cmdAccess (ne_commandWord_of_decodeCmd fun j => h v j rfl)
  | rdStatus => rfl
  | wrBlock size addr wdata => exact decodeAccess_encode_wrBlock size addr wdata
  | rdBlock size addr => exact decodeAccess_encode_rdBlock size addr
  | permuteOnly r => exact decodeAccess_encode_instr .permuteOnly r
  | permuteAndAdd r => exact decodeAccess_encode_instr .permuteAndAdd r
  | batchPermute r => exact decodeAccess_encode_instr .batchPermute r

/-- A CMD write of a word that format CMD reads as a command is that command (R50). -/
theorem decodeAccess_encode_wrCmd_of_command {v : Word} {j : Instr} (h : decodeCmd v = .ok j) :
    decodeAccess (encode (.wrCmd v)) = .ok j := by
  rcases decodeCmd_cases v with ⟨op, r, rfl, hcmd⟩ | ⟨-, -, e, hcmd⟩
  · exact (decodeAccess_commandWord op r).trans (hcmd.symm.trans h)
  · cases hcmd.symm.trans h

end Encoded

/-- Settles O20: each constructor's encoding meets its own row first; a CMD write is then split by its word. -/
theorem decodeEncodeAllInstructions : Obligations.DecodeEncodeAllInstructions :=
  ⟨decodeBus_encode_wrCmd, fun _ => rfl, decodeBus_encode_wrBlock, decodeBus_encode_rdBlock, decodeCmd_commandWord,
    fun _ => decodeAccess_encode, fun _ _ => decodeAccess_encode_wrCmd_of_command⟩

/-- Settles O21: the encoding of the instruction read is the access itself, but for the write data of a read. -/
theorem encodeDecodeAccess : Obligations.EncodeDecodeAccess := by
  intro a i h
  rw [encode_of_decodeAccess h]
  exact ⟨driven_descriptor a, fun hwe => congrArg Access.wdata (driven_of_write a hwe)⟩

/-! ### The command words (R54, R56) -/

section CommandFields

variable (v : Word)

theorem cmdRsv_toNat : (cmdRsv v).toNat = v.toNat / 2 ^ 12 := by
  rw [cmdRsv, BitVec.extractLsb'_toNat, Nat.shiftRight_eq_div_pow]
  exact Nat.mod_eq_of_lt (by omega)

theorem cmdOp_toNat : (cmdOp v).toNat = v.toNat / 2 ^ 8 % 16 := by
  rw [cmdOp, BitVec.extractLsb'_toNat, Nat.shiftRight_eq_div_pow]

/-- The OP fields of the three operations are 1, 2 and 3 (R54). -/
theorem exists_field_iff (f : BitVec 4) : (∃ op : Op, f = op.field) ↔ f.toNat = 1 ∨ f.toNat = 2 ∨ f.toNat = 3 := by
  constructor
  · rintro ⟨op, rfl⟩
    cases op <;> decide
  · rintro (h | h | h)
    · exact ⟨.permuteOnly, BitVec.eq_of_toNat_eq h⟩
    · exact ⟨.permuteAndAdd, BitVec.eq_of_toNat_eq h⟩
    · exact ⟨.batchPermute, BitVec.eq_of_toNat_eq h⟩

/-- A word is a command word by its two upper fields; any round count will do (R54, R55). -/
theorem exists_commandWord_iff :
    (∃ op r, v = Op.commandWord op r) ↔ cmdRsv v = 0#20 ∧ ∃ op : Op, cmdOp v = op.field := by
  constructor
  · rintro ⟨op, r, rfl⟩
    exact ⟨cmdRsv_commandWord op r, op, cmdOp_commandWord op r⟩
  · rintro ⟨hrsv, op, hop⟩
    refine ⟨op, cmdRounds v, ?_⟩
    rw [Op.commandWord, ← hrsv, ← hop]
    exact word_eq_fields v

/-- Format CMD accepts the command words and no others (R54, R56). -/
theorem exists_decodeCmd_iff : (∃ i, decodeCmd v = .ok i) ↔ ∃ op r, v = Op.commandWord op r := by
  rcases decodeCmd_cases v with ⟨op, r, hword, hcmd⟩ | ⟨hword, -, e, hcmd⟩
  · exact iff_of_true ⟨_, hcmd⟩ ⟨op, r, hword⟩
  · refine iff_of_false ?_ fun ⟨op, r, h⟩ => hword op r h
    rintro ⟨i, h⟩
    cases hcmd.symm.trans h

end CommandFields

/-- No two operations share an OP field (R54). -/
theorem field_injective {op op' : Op} (h : op.field = op'.field) : op = op' := by
  have hop := (opOfField_eq_some_iff op op.field).mpr rfl
  have hop' := (opOfField_eq_some_iff op' op.field).mpr h
  exact Option.some.inj (hop.symm.trans hop')

/-- A command word determines its operation and its round count (R53). -/
theorem commandWord_injective {op op' : Op} {r r' : BitVec 8} (h : op.commandWord r = op'.commandWord r') :
    op = op' ∧ r = r' := by
  have hop := congrArg cmdOp h
  have hr := congrArg cmdRounds h
  simp only [cmdOp_commandWord, cmdRounds_commandWord] at hop hr
  exact ⟨field_injective hop, hr⟩

/-- Bit 0 of a command word is the parity of its round count (R53, R56). -/
theorem getLsbD_zero_commandWord (op : Op) (r : BitVec 8) :
    (op.commandWord r).getLsbD 0 = r.getLsbD 0 := BitVec.getLsbD_append

/-- Settles O22: the fields of a word decide, and each is a quotient of the word. -/
theorem commandWordsPartition : Obligations.CommandWordsPartition := by
  refine ⟨fun v => ?_, exists_decodeCmd_iff, fun _ _ _ _ => commandWord_injective, getLsbD_zero_commandWord⟩
  have hrsv : cmdRsv v = 0#20 ↔ v.toNat / 2 ^ 12 = 0 := by
    rw [← cmdRsv_toNat]
    exact BitVec.toNat_inj.symm
  rw [exists_commandWord_iff, hrsv, exists_field_iff, cmdOp_toNat]

/-- Settles O19: each word meets one row of its table. -/
theorem sampleWordsDecode : Obligations.SampleWordsDecode :=
  ⟨rfl, rfl, rfl, rfl, rfl, decodeCmd_commandWord .permuteOnly 20#8, decodeCmd_commandWord .permuteAndAdd 20#8,
    decodeCmd_commandWord .batchPermute 20#8, rfl, rfl⟩

/-! ### The decode table against the ordered checks (R33, R34, R52) -/

namespace Machine

/-- The answer to an access through the ordered checks of `MemWrite` and `MemRead` (R19, R33, R34). -/
def State.checked (s : State) (a : Access) : Host.Outcome State Fault Refusal :=
  if a.we then
    s.answerWrite a (s.memWrite a.addr (sizeBytes a.size) (fromByteLanes a.addr (sizeBytes a.size) a.wdata))
  else s.answerRead a (s.memRead a.addr (sizeBytes a.size))

section Checks

variable (s : State)

/-- A written command word starts its command (R61, R103). -/
theorem writeCmd_commandWord (op : Op) (r : BitVec 8) : s.writeCmd (op.commandWord r) = s.startCommand op r := by
  have hop : opOfField op.field = some op := (opOfField_eq_some_iff op _).mpr rfl
  simp only [State.writeCmd, State.startCommand, cmdRsv_commandWord, cmdOp_commandWord, cmdRounds_commandWord,
    getLsbD_zero_commandWord, hop, ne_eq, not_true_eq_false, if_false]

/-- A CMD write passes the checks and is the command write of its word (R34 branch 5). -/
theorem checked_cmdAccess (v : Word) :
    s.checked (cmdAccess v) = s.answerWrite (cmdAccess v) (s.cmdWrite fun t => t.writeCmd v) := by
  have hlanes : fromByteLanes 0x100#9 4 v = v := takeBytes_zero_four v
  calc s.checked (cmdAccess v)
      = s.answerWrite (cmdAccess v) (s.memWrite 0x100#9 4 (fromByteLanes 0x100#9 4 v)) := rfl
    _ = _ := by rw [hlanes, memWrite_cmd]

/-- A command's meaning is what the checks answer to its encoding (R61). -/
theorem exec_instr_eq_checked (op : Op) (r : BitVec 8) : exec (op.instr r) s = s.checked (encode (op.instr r)) := by
  simp only [exec_instr, encode_instr, checked_cmdAccess, State.cmdWrite, writeCmd_commandWord]

/-- An instruction's meaning is what the checks answer to its encoding (R100, R101, R103, R105). -/
theorem exec_eq_checked (i : Instr) : exec i s = s.checked (encode i) := by
  cases i with
  | wrCmd v => exact (exec_wrCmd s v).trans (checked_cmdAccess s v).symm
  | rdStatus => rfl
  | wrBlock size addr wdata => rfl
  | rdBlock size addr => rfl
  | permuteOnly r => exact exec_instr_eq_checked s .permuteOnly r
  | permuteAndAdd r => exact exec_instr_eq_checked s .permuteAndAdd r
  | batchPermute r => exact exec_instr_eq_checked s .batchPermute r

section Registers

variable {off : BitVec 9} {n : Nat}

/-- Outside the windows the checks let no write pass but the four-byte write of CMD (R34). -/
theorem memWrite_refused (hhigh : 0x100 ≤ off.toNat) (hother : ¬ (off.toNat = 0x100 ∧ n = 4)) (v : Word) :
    s.memWrite off n v = .refused := by
  simp only [State.memWrite]
  split_ifs with hsize halign hend hstatus hcmd hfour hrun
  any_goals rfl
  · obtain rfl : n = 4 := not_not.mp hfour
    omega
  · omega
  · omega

/-- Outside the windows the checks let no read pass but the four-byte read of STATUS (R33). -/
theorem memRead_refused (hhigh : 0x100 ≤ off.toNat) (hother : ¬ (off.toNat = 0x104 ∧ n = 4)) :
    s.memRead off n = .refused := by
  simp only [State.memRead]
  split_ifs with hsize halign hend hcmd hstatus hfour hrun
  any_goals rfl
  · obtain rfl : n = 4 := not_not.mp hfour
    omega
  · omega
  · omega

end Registers

theorem sizeBytes_eq_four_iff : ∀ size : BitVec 2, sizeBytes size = 4 ↔ size = 2#2 := by decide

/-- The descriptor of a four-byte access by direction and offset (R51). -/
theorem descriptor_of_fields {a : Access} {off : Nat} (haddr : a.addr.toNat = off) (hsize : sizeBytes a.size = 4) :
    a.descriptor = BitVec.ofBool a.we ++ 2#2 ++ BitVec.ofNat 9 off := by
  rw [Access.descriptor, (sizeBytes_eq_four_iff a.size).mp hsize, ← haddr, BitVec.ofNat_toNat, BitVec.setWidth_eq]

/-- The checks refuse an access whose descriptor is of no row (R52). -/
theorem checked_of_noRow {a : Access} (hhigh : 0x100 ≤ a.addr.toNat) (hcmd : a.descriptor ≠ 0xD00#12)
    (hstatus : a.descriptor ≠ 0x504#12) : s.checked a = .next s.refuse := by
  unfold State.checked
  cases hwe : a.we with
  | true =>
    have hother : ¬ (a.addr.toNat = 0x100 ∧ sizeBytes a.size = 4) := fun ⟨haddr, hsize⟩ =>
      hcmd (by rw [descriptor_of_fields haddr hsize, hwe]; rfl)
    rw [if_pos rfl, memWrite_refused s hhigh hother]
    rfl
  | false =>
    have hother : ¬ (a.addr.toNat = 0x104 ∧ sizeBytes a.size = 4) := fun ⟨haddr, hsize⟩ =>
      hstatus (by rw [descriptor_of_fields haddr hsize, hwe]; rfl)
    rw [if_neg Bool.false_ne_true, memRead_refused s hhigh hother]
    rfl

/-- Serving an access through the decode table is answering it through the checks, as the encoder drives it (R52). -/
theorem serve_eq_checked (a : Access) : serve a s = s.checked a.driven := by
  have hdecoded := decodeAccess_decoded a
  unfold serve
  cases hd : decodeAccess a with
  | ok i =>
    rw [← encode_of_decodeAccess hd]
    exact exec_eq_checked s i
  | error e =>
    rw [hd] at hdecoded
    cases hdecoded with
    | noRow _ hhigh hcmd hstatus => exact (checked_of_noRow (a := a.driven) s hhigh hcmd hstatus).symm

end Checks

/-- Settles O23: an access of a row goes through the checks by its instruction's meaning; the checks refuse the
others. -/
theorem decodeTableAgreesWithChecks : Obligations.DecodeTableAgreesWithChecks := by
  intro a s
  refine ⟨fun hwe => ?_, fun hwe => ?_⟩
  · rw [serve_eq_checked, driven_of_write a hwe, State.checked, if_pos hwe]
  · rw [serve_eq_checked, driven_of_read a hwe, State.checked, if_neg (ne_true_of_eq_false hwe)]

end Machine

end Sys2Proof

/-! ### A table word as the next access (R50, log entry 12) -/

namespace Sys2Proof

/-- A table word decodes to an instruction when both its layout and the decoders accept it. -/
theorem decodeTableWord_eq_some {nbits w : Nat} {i : Instr} (h : decodeTableWord nbits w = some i) :
    ∃ a, accessOfTableWord nbits w = .ok a ∧ decodeAccess a = .ok i := by
  unfold decodeTableWord at h
  cases haccess : accessOfTableWord nbits w with
  | error e => simp [haccess] at h
  | ok a =>
    cases hd : decodeAccess a with
    | error e => simp [haccess, hd] at h
    | ok j =>
      have hij : j = i := by simpa [haccess, hd] using h
      exact ⟨a, rfl, hij ▸ hd⟩

namespace Machine

/-- Settles O25: the word's access is presented, and the step serves what is presented. -/
theorem tableWordRunsNext : Obligations.TableWordRunsNext := by
  intro s nbits w i h
  obtain ⟨a, haccess, hi⟩ := decodeTableWord_eq_some h
  have hword : s.withFetchWord nbits w = s.presenting a := by rw [State.withFetchWord, haccess]
  rw [hword, step_of_access (presenting_port s a) (presenting_host s a), serve_of_decode hi]
  rfl

/-! ### The STATUS word (R57) -/

section StatusBits

variable (s : State)

theorem status_bit0 : s.status.getLsbD 0 = s.busy := by
  rw [State.status, BitVec.getLsbD_append]
  simp

theorem status_bit1 : s.status.getLsbD 1 = s.done := by
  rw [State.status, BitVec.getLsbD_append, if_neg (by decide), BitVec.getLsbD_append]
  simp

theorem status_bit2 : s.status.getLsbD 2 = s.err := by
  rw [State.status, BitVec.getLsbD_append, if_neg (by decide), BitVec.getLsbD_append, if_neg (by decide),
    BitVec.getLsbD_append]
  simp

theorem status_toNat :
    s.status.toNat = s.errcode.toNat * 16 + s.err.toNat * 4 + s.done.toNat * 2 + s.busy.toNat := by
  have hlayout : ∀ (e : BitVec 4) (b2 b1 b0 : Bool),
      (0#24 ++ e ++ 0#1 ++ BitVec.ofBool b2 ++ BitVec.ofBool b1 ++ BitVec.ofBool b0).toNat =
        e.toNat * 16 + b2.toNat * 4 + b1.toNat * 2 + b0.toNat := by decide
  exact hlayout s.errcode s.err s.done s.busy

/-- STATUS shows a fault or a running command, not both: SEQ is one of them (R16, R17). -/
theorem not_busy_and_err : ¬ (s.busy = true ∧ s.err = true) := by
  unfold State.busy State.err
  cases s.seq <;> decide

/-- BUSY is SEQ being RUN (R17). -/
theorem busy_eq_true_iff : s.busy = true ↔ s.seq = .run := beq_iff_eq

end StatusBits

/-- The reset state with SEQ, DONE and ERRCODE set, of which STATUS is made (R57). -/
def State.withStatus (seq : Seq) (done : Bool) (errcode : BitVec 4) : State :=
  { State.reset with seq := seq, done := done, errcode := errcode }

theorem status_eq_withStatus (s : State) : s.status = (State.withStatus s.seq s.done s.errcode).status := rfl

/-- Such a state meets the control invariant when ERRCODE and DONE go with SEQ (R17). -/
theorem withStatus_inv {seq : Seq} {done : Bool} {errcode : BitVec 4}
    (hfault : seq = .fault → errcode = errOddRounds ∨ errcode = errIllegalCmd) (hcode : seq ≠ .fault → errcode = 0#4)
    (hrun : seq = .run → done = false) : (State.withStatus seq done errcode).Inv :=
  ⟨⟨hfault, hcode⟩, ⟨nofun, fun h => ⟨hrun h, BitVec.getLsbD_zero.symm⟩⟩, trivial⟩

/-- The seven values of R57. -/
def statusWords : List Word := [0x00#32, 0x01#32, 0x02#32, 0x14#32, 0x16#32, 0x24#32, 0x26#32]

/-- In RUN, DONE is 0 (R57). -/
theorem not_busy_and_done_of_inv {s : State} (hinv : s.Inv) : ¬ (s.busy = true ∧ s.done = true) := by
  obtain ⟨-, ⟨-, hlatches⟩, -⟩ := hinv
  rintro ⟨hbusy, hdone⟩
  obtain ⟨hnot, -⟩ := hlatches ((busy_eq_true_iff s).mp hbusy)
  exact Bool.false_ne_true (hnot.symm.trans hdone)

/-- The invariant leaves STATUS the seven values: ERRCODE 0 and DONE 0 in RUN, ERRCODE 0 in IDLE, code 1 or 2 in
FAULT (R57). -/
theorem status_mem_of_inv {s : State} (hinv : s.Inv) : s.status ∈ statusWords := by
  obtain ⟨⟨hfault, hcode⟩, ⟨-, hlatches⟩, -⟩ := hinv
  rw [status_eq_withStatus]
  cases hseq : s.seq with
  | idle =>
    rw [hcode (by simp [hseq])]
    cases s.done <;> decide
  | run =>
    obtain ⟨hdone, -⟩ := hlatches hseq
    rw [hcode (by simp [hseq]), hdone]
    decide
  | fault =>
    rcases hfault hseq with hone | htwo
    · rw [hone]
      cases s.done <;> decide
    · rw [htwo]
      cases s.done <;> decide

/-- Each of the seven values is the STATUS of a state that meets the invariant (R57). -/
theorem exists_inv_of_mem {w : Word} (hw : w ∈ statusWords) : ∃ s : State, s.Inv ∧ s.status = w := by
  simp only [statusWords, List.mem_cons, List.not_mem_nil, or_false] at hw
  rcases hw with rfl | rfl | rfl | rfl | rfl | rfl | rfl
  · exact ⟨.withStatus .idle false 0#4, withStatus_inv (by decide) (by decide) (by decide), rfl⟩
  · exact ⟨.withStatus .run false 0#4, withStatus_inv (by decide) (by decide) (by decide), rfl⟩
  · exact ⟨.withStatus .idle true 0#4, withStatus_inv (by decide) (by decide) (by decide), rfl⟩
  · exact ⟨.withStatus .fault false errOddRounds, withStatus_inv (by decide) (by decide) (by decide), rfl⟩
  · exact ⟨.withStatus .fault true errOddRounds, withStatus_inv (by decide) (by decide) (by decide), rfl⟩
  · exact ⟨.withStatus .fault false errIllegalCmd, withStatus_inv (by decide) (by decide) (by decide), rfl⟩
  · exact ⟨.withStatus .fault true errIllegalCmd, withStatus_inv (by decide) (by decide) (by decide), rfl⟩

/-- Settles O42: the invariant decides ERRCODE and DONE by SEQ, and the flags are the word's bits. -/
theorem statusValues : Obligations.StatusValues := by
  refine ⟨fun w => ?_, fun s hinv => ⟨not_busy_and_done_of_inv hinv, not_busy_and_err s, status_toNat s,
    status_bit0 s, status_bit1 s, status_bit2 s⟩⟩
  have hexact : (∃ s : State, s.Inv ∧ s.status = w) ↔ w ∈ statusWords :=
    ⟨fun ⟨_, hinv, hw⟩ => hw ▸ status_mem_of_inv hinv, exists_inv_of_mem⟩
  simpa only [statusWords, List.mem_cons, List.not_mem_nil, or_false] using hexact

/-! ### WAIT_DONE (R63)

Each poll reads STATUS; while BUSY the sequencer moves once between two polls, so RC bounds their number. -/

section WaitDone

variable {s : State} {rest : List HostEvent}

/-- A poll of WAIT_DONE reads STATUS (R63). -/
theorem step_of_waitDone (hport : s.port = none) (hhost : s.host = .waitDone :: rest) :
    step s = .next { s with port := none, reply := .read s.status, host := s.afterPoll rest } := by
  have hturn : step s = serve statusRead { s with host := s.afterPoll rest } := by
    simp [step, State.turn, hport, hhost]
  rw [hturn, serve_of_decode (i := .rdStatus) rfl, exec_rdStatus]
  rfl

theorem step_of_wait (hport : s.port = none) (hhost : s.host = .wait :: rest) :
    step s = .next (State.sequencerTurn { s with host := rest }) := by
  simp [step, State.turn, hport, hhost]

/-- WAIT_DONE ended in `t`, before the events `rest`: the last STATUS read was answered out of RUN (R63). -/
structure WaitDoneEnded (rest : List HostEvent) (t : State) : Prop where
  host : t.host = rest
  reply : t.reply = .read t.status
  seq : t.seq ≠ .run

/-- Out of RUN one poll ends WAIT_DONE, and leaves DONE as it is. -/
theorem waitDone_ends_of_not_run (hport : s.port = none) (hhost : s.host = .waitDone :: rest) (hrun : s.seq ≠ .run) :
    ∃ t, stepN 1 s = some t ∧ WaitDoneEnded rest t ∧ t.done = s.done := by
  have hbusy : ¬ s.busy = true := mt (busy_eq_true_iff s).mp hrun
  exact ⟨_, stepN_succ_of_step (step_of_waitDone hport hhost), ⟨if_neg hbusy, rfl, hrun⟩, rfl⟩

/-- The sequencer's turn in RUN is the completion step or a round step, by RC (R90, R93). -/
theorem sequencerTurn_of_run (hrun : s.seq = .run) :
    s.sequencerTurn = if s.rc = 0#8 then s.completionTurn else s.roundTurn := by
  rw [State.sequencerTurn, State.sequencer, hrun]
  dsimp only
  split <;> rfl

/-- A running command between a poll of WAIT_DONE that showed BUSY and the next one. -/
def State.betweenPolls (s : State) (rest : List HostEvent) : State :=
  { s with port := none, reply := .read s.status, host := .waitDone :: rest }

/-- In RUN two steps of WAIT_DONE are a poll and one move of the sequencer. -/
theorem stepN_poll_of_run (hport : s.port = none) (hhost : s.host = .waitDone :: rest) (hrun : s.seq = .run) :
    stepN 2 s = some
      (if s.rc = 0#8 then (s.betweenPolls rest).completionTurn else (s.betweenPolls rest).roundTurn) := by
  have hpoll : s.afterPoll rest = .wait :: .waitDone :: rest := if_pos ((busy_eq_true_iff s).mpr hrun)
  have hmove := sequencerTurn_of_run (s := s.betweenPolls rest) hrun
  rw [stepN_succ_of_step (step_of_waitDone hport hhost), hpoll, stepN_succ_of_step (step_of_wait rfl rfl)]
  exact congrArg some hmove

/-- In RUN, WAIT_DONE ends with DONE set: the moves between the polls are RC rounds and the completion step (R91,
R93). -/
theorem waitDone_ends_of_run {n : Nat} (hrc : s.rc.toNat = n) (hport : s.port = none)
    (hhost : s.host = .waitDone :: rest) (hrun : s.seq = .run) :
    ∃ m t, stepN m s = some t ∧ WaitDoneEnded rest t ∧ t.done = true := by
  induction n generalizing s with
  | zero =>
    have hpoll := stepN_poll_of_run hport hhost hrun
    rw [if_pos (BitVec.eq_of_toNat_eq hrc)] at hpoll
    obtain ⟨t, hlast, hended, hdone⟩ :=
      waitDone_ends_of_not_run (s := (s.betweenPolls rest).completionTurn) rfl rfl nofun
    exact ⟨2 + 1, t, (stepN_add_of_stepN hpoll).trans hlast, hended, hdone⟩
  | succ n ih =>
    have hpoll := stepN_poll_of_run hport hhost hrun
    have hne : s.rc ≠ 0#8 := fun h => by simp [h] at hrc
    have hdown : (s.betweenPolls rest).roundTurn.rc.toNat = n := by
      show (s.rc - 1#8).toNat = n
      bv_omega
    rw [if_neg hne] at hpoll
    obtain ⟨m, t, hsteps, hended⟩ := ih (s := (s.betweenPolls rest).roundTurn) hdown rfl rfl hrun
    exact ⟨2 + m, t, (stepN_add_of_stepN hpoll).trans hsteps, hended⟩

end WaitDone

/-- Settles O55: out of RUN the first poll ends it; in RUN each poll is followed by a move of the sequencer, which RC
bounds. -/
theorem waitDoneEnds : Obligations.WaitDoneEnds := by
  intro s rest hport hhost
  have hends : ∃ n t, stepN n s = some t ∧ WaitDoneEnded rest t ∧ (s.seq = .run → t.done = true) := by
    by_cases hrun : s.seq = .run
    · obtain ⟨n, t, hsteps, hended, hdone⟩ := waitDone_ends_of_run rfl hport hhost hrun
      exact ⟨n, t, hsteps, hended, fun _ => hdone⟩
    · obtain ⟨t, hsteps, hended, -⟩ := waitDone_ends_of_not_run hport hhost hrun
      exact ⟨1, t, hsteps, hended, fun h => absurd h hrun⟩
  obtain ⟨n, t, hsteps, ⟨hrest, hreply, hseq⟩, hdone⟩ := hends
  have hbusy : t.busy = false := by simpa using mt (busy_eq_true_iff t).mp hseq
  exact ⟨n, t, t.status, hsteps, hrest, hreply, (status_bit0 t).trans hbusy, hseq,
    fun hrun => (status_bit1 t).trans (hdone hrun)⟩

end Machine

/-! ### LOAD_WORDS (R60, R62, R100) -/

/-- Of two writes to one element the last stays. -/
@[simp] theorem Quad.set_set {α : Type} (v : Quad α) (i : Fin 4) (a b : α) : (v.set i a).set i b = v.set i b :=
  Quad.ext_get fun j => by
    by_cases hj : j = i
    · simp [hj]
    · simp [Quad.get_set_ne _ _ _ _ hj]

/-- A block after the words of `w` at the indices `js` were written to it, one after the other (R62). -/
def storeWords (w : Block) (js : List (Fin 16)) (b : Block) : Block := js.foldl (fun b j => b.setWord j (w.word j)) b

/-- The words written are those of `w`, the others stay. -/
theorem word_storeWords (w : Block) (js : List (Fin 16)) (b : Block) (i : Fin 16) :
    (storeWords w js b).word i = if i ∈ js then w.word i else b.word i := by
  induction js generalizing b with
  | nil => rfl
  | cons j js ih =>
    have hstep : storeWords w (j :: js) b = storeWords w js (b.setWord j (w.word j)) := rfl
    rw [hstep, ih]
    by_cases hj : i = j
    · simp [hj]
    · simp [hj, Quad.word_setWord_ne _ _ _ _ hj]

/-- Writing all sixteen words leaves the block written (R62). -/
theorem storeWords_finRange (w b : Block) : storeWords w (List.finRange 16) b = w :=
  Quad.ext_word fun i => (word_storeWords w _ b i).trans (if_pos (List.mem_finRange i))

namespace Machine

section WordWrites

variable (k : Fin 4) (j : Fin 16)

/-- A word access to word `j` of window `k` is to byte 0 of that word (R31, R33). -/
theorem laneOf_wordAddr : laneOf (blockOffset (wordAddr k j)) = k :=
  laneOf_eq (m := ⟨4 * j.val, by omega⟩) (blockOffset_wordAddr k j)

theorem wordOf_wordAddr : wordOf (blockOffset (wordAddr k j)) = j :=
  (wordOf_eq (m := ⟨4 * j.val, by omega⟩) (blockOffset_wordAddr k j)).trans
    (Fin.ext (Nat.mul_div_cancel_left j.val (by omega)))

theorem byteOf_wordAddr : byteOf (blockOffset (wordAddr k j)) = 0 :=
  (byteOf_eq (m := ⟨4 * j.val, by omega⟩) (blockOffset_wordAddr k j)).trans (Nat.mul_mod_right 4 j.val)

/-- Putting all four bytes replaces the word (R34). -/
theorem putBytes_zero_four (w v : Word) : putBytes w 0 4 v = v := by
  refine BitVec.eq_of_getLsbD_eq fun m hm => ?_
  rw [getLsbD_putBytes _ _ _ _ hm, if_pos (by omega)]
  rfl

/-- `WR32` of word `j` of window `k` presents a WR_BLOCK (R60). -/
theorem wr32_eq (v : Word) : wr32 (wordOffset k j) v = .access (encode (.wrBlock 2#2 (wordAddr k j) v)) := by
  have hlanes : toByteLanes (blockOffset (wordAddr k j)) v = v := by
    rw [toByteLanes, byteOf_wordAddr]
    exact BitVec.shiftLeft_zero v
  rw [wr32, wrEvent, wordOffset_eq, hlanes]
  rfl

/-- A word written to window `k` is word `j` of lane `k` (R100). -/
theorem wrBlock_wordAddr (s : State) (v : Word) : s.wrBlock 2#2 (wordAddr k j) v = s.setWord k j v := by
  have hsize : sizeBytes 2#2 = 4 := rfl
  rw [State.wrBlock, State.writeWindow, fromByteLanes, laneOf_wordAddr, wordOf_wordAddr, byteOf_wordAddr, hsize,
    takeBytes_zero_four, putBytes_zero_four]

/-- The state after the write of one word (R100). -/
def State.wordWritten (s : State) (k : Fin 4) (j : Fin 16) (v : Word) : State :=
  { s.setWord k j v with port := none, reply := .written, host := s.host.tail }

variable {k j} {s : State} {v : Word} {rest : List HostEvent}

/-- Out of RUN one step writes one word (R60, R100). -/
theorem step_of_wr32 (hrun : s.seq ≠ .run) (hport : s.port = none) (hhost : s.host = wr32 (wordOffset k j) v :: rest) :
    step s = .next (s.wordWritten k j v) := by
  rw [wr32_eq] at hhost
  rw [step_of_access hport hhost, serve_of_decode (decodeAccess_encode_wrBlock _ _ _),
    exec_wrBlock_performed (s := { s with host := rest }) (blockAccessOk_wordAddr k j) hrun, wrBlock_wordAddr,
    State.wordWritten, hhost]
  rfl

end WordWrites

/-- Out of RUN a list of word writes to one window takes a step each and changes that lane only (R60, R100). -/
theorem stepN_wordWrites {k : Fin 4} {w : Block} {s : State} (j : Fin 16) (js : List (Fin 16)) (hrun : s.seq ≠ .run)
    (hport : s.port = none) (hhost : s.host = (j :: js).map fun i => wr32 (wordOffset k i) (w.word i)) :
    stepN (js.length + 1) s =
      some { s with x := s.x.set k (storeWords w (j :: js) (s.x.get k)), reply := .written, host := [] } := by
  induction js generalizing j s with
  | nil =>
    rw [stepN_succ_of_step (step_of_wr32 hrun hport hhost)]
    simp [stepN, State.wordWritten, storeWords, hport, hhost, State.setWord]
  | cons i js ih =>
    have htail : (s.wordWritten k j (w.word j)).host = (i :: js).map fun i => wr32 (wordOffset k i) (w.word i) :=
      congrArg List.tail hhost
    have hrest := ih (s := s.wordWritten k j (w.word j)) i hrun rfl htail
    rw [List.length_cons, stepN_succ_of_step (step_of_wr32 hrun hport hhost), hrest]
    simp [State.wordWritten, storeWords, hport, State.setWord]

/-- Settles O56: sixteen writes, each of its own word, leave the sixteen words. -/
theorem loadWordsFillsLane : Obligations.LoadWordsFillsLane := by
  intro s k w hrun hport hhost
  have hall : List.finRange 16 = 0 :: (List.finRange 15).map Fin.succ := List.finRange_succ
  rw [loadWords, hall] at hhost
  have hload := stepN_wordWrites 0 _ hrun hport hhost
  rw [← hall, storeWords_finRange, List.length_map, List.length_finRange] at hload
  exact ⟨_, hload, rfl, rfl⟩

end Machine

end Sys2Proof

/-! ### The lane operations: words, inverses, and lane by lane (R65 to R70, R77)

A rotated word is given bit by bit once (`getLsbD_rotl32`). Two rotations then compose to the five-bit sum of their
amounts, and what undoes a rotation is the rotation by the negated amount. -/

namespace Sys2Proof

section AddAndXor

variable (a b : Word)

@[simp] theorem toNat_add32 : (add32 a b).toNat = (a.toNat + b.toNat) % 2 ^ 32 := BitVec.toNat_add a b

theorem toNat_sub32 : (sub32 a b).toNat = (a.toNat + 2 ^ 32 - b.toNat) % 2 ^ 32 := by
  have hb : b.toNat < 2 ^ 32 := b.isLt
  rw [sub32, BitVec.toNat_sub, Nat.add_sub_assoc hb.le, Nat.add_comm]

@[simp] theorem sub32_add32 : sub32 (add32 a b) b = a := BitVec.add_sub_cancel a b

@[simp] theorem add32_sub32 : add32 (sub32 a b) b = a := BitVec.sub_add_cancel a b

@[simp] theorem xor32_xor32 : xor32 (xor32 a b) b = a := by
  rw [xor32, xor32, BitVec.xor_assoc, BitVec.xor_self, BitVec.xor_zero]

end AddAndXor

/-- Settles O1: the sum is the library's addition of words, which drops the carry. -/
theorem addWrapsModulo : Obligations.AddWrapsModulo := by
  refine ⟨toNat_add32, BitVec.add_comm, BitVec.add_assoc, BitVec.add_zero, fun a => ?_, rfl, rfl, rfl⟩
  rw [toNat_add32, Nat.two_mul]

/-- Settles O2: each law is that of the library's exclusive or, and the inverse is `xor32_xor32`. -/
theorem xorIsBitwise : Obligations.XorIsBitwise :=
  ⟨fun _ _ _ _ => BitVec.getLsbD_xor, fun _ => BitVec.xor_self, fun _ => BitVec.xor_zero,
    fun _ => BitVec.xor_allOnes, BitVec.xor_comm, BitVec.xor_assoc, xor32_xor32, rfl⟩

section Rotation

variable (x : Word) (n : BitVec 5)

@[simp] theorem rotl32_zero : rotl32 x 0#5 = x := if_pos rfl

/-- The model's rotation is the library's (R67). -/
theorem rotl32_eq_rotateLeft : rotl32 x n = x.rotateLeft n.toNat := by
  have hlt : n.toNat < 32 := n.isLt
  rw [BitVec.rotateLeft_def, Nat.mod_eq_of_lt hlt]
  by_cases hn : n = 0#5
  · have hout : x >>> 32 = 0#32 := BitVec.ushiftRight_eq_zero (Nat.le_refl 32)
    simp [hn, hout]
  · exact if_neg hn

/-- The per-bit form, read at the bit's new place (R67). -/
theorem getLsbD_rotl32 {m : Nat} (hm : m < 32) :
    (rotl32 x n).getLsbD m = x.getLsbD ((m + (32 - n.toNat)) % 32) := by
  have hlt : n.toNat < 32 := n.isLt
  rw [rotl32_eq_rotateLeft, BitVec.getLsbD_rotateLeft, Nat.mod_eq_of_lt hlt]
  by_cases hwrap : m < n.toNat
  · have hsource : (m + (32 - n.toNat)) % 32 = 32 - n.toNat + m := by omega
    simp [hwrap, hsource]
  · have hsource : (m + (32 - n.toNat)) % 32 = m - n.toNat := by omega
    simp [hwrap, hm, hsource]

/-- The per-bit form, read from the bit's old place (R67). -/
theorem getLsbD_rotl32_add {m : Nat} (hm : m < 32) :
    (rotl32 x n).getLsbD ((m + n.toNat) % 32) = x.getLsbD m := by
  have hlt : n.toNat < 32 := n.isLt
  have hsource : ((m + n.toNat) % 32 + (32 - n.toNat)) % 32 = m := by omega
  rw [getLsbD_rotl32 x n (Nat.mod_lt _ (by decide)), hsource]

/-- The shift form: the bits that stay below the top, and below them the bits shifted out at the top (R67). -/
theorem toNat_rotl32 (hn : n ≠ 0#5) :
    (rotl32 x n).toNat = x.toNat * 2 ^ n.toNat % 2 ^ 32 + x.toNat / 2 ^ (32 - n.toNat) := by
  have hlt : n.toNat < 32 := n.isLt
  have hsplit : 2 ^ n.toNat * 2 ^ (32 - n.toNat) = 2 ^ 32 := by rw [← pow_add, Nat.add_sub_cancel' hlt.le]
  have hhigh : x.toNat * 2 ^ n.toNat % 2 ^ 32 = 2 ^ n.toNat * (x.toNat % 2 ^ (32 - n.toNat)) := by
    rw [Nat.mul_comm, ← hsplit, Nat.mul_mod_mul_left]
  have hlow : x.toNat / 2 ^ (32 - n.toNat) < 2 ^ n.toNat :=
    Nat.div_lt_of_lt_mul (Nat.mul_comm _ _ ▸ hsplit ▸ x.isLt)
  rw [rotl32, if_neg hn, BitVec.toNat_or, BitVec.toNat_shiftLeft, BitVec.toNat_ushiftRight, Nat.shiftLeft_eq,
    Nat.shiftRight_eq_div_pow, hhigh, Nat.two_pow_add_eq_or_of_lt hlow]

/-- Two rotations compose to the sum of their amounts (R67). -/
theorem rotl32_rotl32 (m : BitVec 5) : rotl32 (rotl32 x m) n = rotl32 x (m + n) := by
  refine BitVec.eq_of_getLsbD_eq fun i hi => ?_
  have hm : m.toNat < 32 := m.isLt
  have hn : n.toNat < 32 := n.isLt
  have hsource : ((i + (32 - n.toNat)) % 32 + (32 - m.toNat)) % 32 = (i + (32 - (m.toNat + n.toNat) % 32)) % 32 := by
    omega
  rw [getLsbD_rotl32 _ _ hi, getLsbD_rotl32 _ _ (Nat.mod_lt _ (by decide)), getLsbD_rotl32 _ _ hi, BitVec.toNat_add,
    hsource]

@[simp] theorem rotl32_rotl32_neg : rotl32 (rotl32 x n) (-n) = x := by
  rw [rotl32_rotl32, BitVec.add_right_neg, rotl32_zero]

@[simp] theorem rotl32_neg_rotl32 : rotl32 (rotl32 x (-n)) n = x := by
  rw [rotl32_rotl32, BitVec.add_left_neg, rotl32_zero]

/-- On the five-bit port `32 - n` is the negated amount. -/
theorem ofNat_sub_toNat_eq_neg : BitVec.ofNat 5 (32 - n.toNat) = -n := rfl

theorem rotl32_zero_word : rotl32 0#32 n = 0#32 := by
  refine BitVec.eq_of_getLsbD_eq fun i hi => ?_
  rw [getLsbD_rotl32 _ _ hi, BitVec.getLsbD_zero, BitVec.getLsbD_zero]

theorem rotl32_allOnes : rotl32 (BitVec.allOnes 32) n = BitVec.allOnes 32 := by
  refine BitVec.eq_of_getLsbD_eq fun i hi => ?_
  have hsource : (i + (32 - n.toNat)) % 32 < 32 := Nat.mod_lt _ (by decide)
  rw [getLsbD_rotl32 _ _ hi, BitVec.getLsbD_allOnes, BitVec.getLsbD_allOnes, decide_eq_true hsource, decide_eq_true hi]

/-- A rotation exchanges the low `k` bits and the high `j` bits (R67). -/
theorem rotl32_eq_append {k j : Nat} (hw : k + j = 32) (hj : j < 32) :
    rotl32 x (BitVec.ofNat 5 j) = (x.extractLsb' 0 k ++ x.extractLsb' k j).cast hw := by
  refine BitVec.eq_of_getLsbD_eq fun i hi => ?_
  have hamount : (BitVec.ofNat 5 j).toNat = j := Nat.mod_eq_of_lt hj
  rw [getLsbD_rotl32 _ _ hi, hamount, BitVec.getLsbD_cast, BitVec.getLsbD_append]
  by_cases hlow : i < j
  · have hsource : (i + (32 - j)) % 32 = k + i := by omega
    simp [hlow, hsource]
  · have hsource : (i + (32 - j)) % 32 = i - j := by omega
    have hfit : i - j < k := by omega
    simp [hlow, hsource, hfit]

end Rotation

/-- Settles O3: the shift form, the per-bit form, composition, and the two exchanges of low and high bits. -/
theorem rotateLeftRule : Obligations.RotateLeftRule := by
  refine ⟨toNat_rotl32, rotl32_zero, fun x n _ hm => getLsbD_rotl32_add x n hm,
    fun n => ⟨rotl32_zero_word n, rotl32_allOnes n⟩, fun x n _ => ?_, fun x m n => ?_,
    fun x => rotl32_eq_append x rfl (by decide), fun x => rotl32_eq_append x rfl (by decide), rfl, rfl, rfl, rfl, rfl⟩
  · rw [ofNat_sub_toNat_eq_neg, rotl32_rotl32_neg]
  · have hsum : BitVec.ofNat 5 ((m.toNat + n.toNat) % 32) = m + n := BitVec.eq_of_toNat_eq (by simp)
    rw [rotl32_rotl32, hsum]

/-- Settles O5: each operation has an inverse on both sides. -/
theorem laneOpsAreBijections : Obligations.LaneOpsAreBijections := by
  intro b n
  have hadd : Function.Bijective fun a => add32 a b :=
    Function.bijective_iff_has_inverse.mpr ⟨fun s => sub32 s b, (sub32_add32 · b), (add32_sub32 · b)⟩
  have hxor : Function.Bijective fun a => xor32 a b := Function.Involutive.bijective (xor32_xor32 · b)
  have hrotl : Function.Bijective fun a => rotl32 a n :=
    Function.bijective_iff_has_inverse.mpr
      ⟨fun s => rotl32 s (-n), (rotl32_rotl32_neg · n), (rotl32_neg_rotl32 · n)⟩
  refine ⟨hadd, hxor, hrotl, (sub32_add32 · b), (xor32_xor32 · b), fun a => ?_, (toNat_sub32 · b)⟩
  have hamount : BitVec.ofNat 5 ((32 - n.toNat) % 32) = -n := BitVec.eq_of_toNat_eq (by simp)
  rw [hamount, rotl32_rotl32_neg]

section Lanes

variable (a b : Quad Word) (k : Fin 4)

@[simp] theorem get_add32x4 : (add32x4 a b).get k = add32 (a.get k) (b.get k) := Quad.get_zipWith add32 a b k

@[simp] theorem get_xor32x4 : (xor32x4 a b).get k = xor32 (a.get k) (b.get k) := Quad.get_zipWith xor32 a b k

@[simp] theorem get_rotl32x4 (n : BitVec 5) : (rotl32x4 a n).get k = rotl32 (a.get k) n := Quad.get_map _ a k

/-- QRx4 is the same chain of lane operations as QR, so each lane goes through QR alone (R77). -/
theorem map_get_qrx4 (c d : Quad Word) :
    (qrx4 a b c d).map (fun q => q.get k) = qr (a.get k) (b.get k) (c.get k) (d.get k) := by
  simp only [qrx4, Quad.map, get_add32x4, get_xor32x4, get_rotl32x4, qr]

end Lanes

/-- Settles O4: the four-lane forms apply the word operation lane by lane, and QRx4 is a chain of them. -/
theorem quadLaneFormsActPerLane : Obligations.QuadLaneFormsActPerLane :=
  fun a b c d n k => ⟨get_add32x4 a b k, get_xor32x4 a b k, get_rotl32x4 a k n, map_get_qrx4 a b k c d⟩

end Sys2Proof

/-! ### The quarter round (R75, R79) and the phases made of it (R78, R80, R81, R85)

A phase is four quarter rounds on disjoint words. So a word's value after any of them is its own quarter round of the
words there were at first (`word_phaseAtOnce`, `word_phaseInPlace`), whatever was written before or after it. -/

namespace Sys2Proof

/-- Settles O6: the rotation is the library's by `rotl32_eq_rotateLeft`, addition and exclusive or by definition. -/
theorem qrIsTheDocumentsLines : Obligations.QrIsTheDocumentsLines := by
  refine ⟨fun a b c d => ?_, rfl⟩
  simp only [qr, rotl32_eq_rotateLeft]
  rfl

section LineInverses

variable (x y : Word) {m n : BitVec 5}

/-- What QRINV does to the rotated word of a line of QR (R79). -/
theorem xor32_rotl32_undo (hmn : m + n = 0#5) : xor32 (rotl32 (rotl32 (xor32 x y) m) n) y = x := by
  rw [rotl32_rotl32, hmn, rotl32_zero, xor32_xor32]

/-- What a line of QR does to the word that QRINV rotated back. -/
theorem rotl32_xor32_undo (hmn : m + n = 0#5) : rotl32 (xor32 (xor32 (rotl32 x m) y) y) n = x := by
  rw [xor32_xor32, rotl32_rotl32, hmn, rotl32_zero]

end LineInverses

/-- QRINV takes the four lines of QR back, last line first (R79). -/
theorem qrinv_qr (a b c d : Word) :
    qrinv (qr a b c d).q0 (qr a b c d).q1 (qr a b c d).q2 (qr a b c d).q3 = ⟨a, b, c, d⟩ := by
  simp (disch := decide) only [qr, qrinv, xor32_rotl32_undo, sub32_add32]

/-- QR takes the four steps of QRINV back, last step first (R79). -/
theorem qr_qrinv (a b c d : Word) :
    qr (qrinv a b c d).q0 (qrinv a b c d).q1 (qrinv a b c d).q2 (qrinv a b c d).q3 = ⟨a, b, c, d⟩ := by
  simp (disch := decide) only [qr, qrinv, rotl32_xor32_undo, add32_sub32]

/-- Settles O7: each line of QR is undone by one step of QRINV, and the other way round. -/
theorem qrInverseUndoesQr : Obligations.QrInverseUndoesQr := fun a b c d => ⟨qrinv_qr a b c d, qr_qrinv a b c d⟩

/-- The index of the word that quarter round `i` of a column phase takes as its argument `k` (R80). -/
def colWord (i : Fin 4) : Fin 4 → Fin 16
  | 0 => ⟨i.val, by omega⟩
  | 1 => ⟨4 + i.val, by omega⟩
  | 2 => ⟨8 + i.val, by omega⟩
  | 3 => ⟨12 + i.val, by omega⟩

/-- The index of the word that quarter round `i` of a diagonal phase takes as its argument `k` (R81). -/
def diagWord (i : Fin 4) : Fin 4 → Fin 16
  | 0 => ⟨i.val, by omega⟩
  | 1 => ⟨4 + (i.val + 1) % 4, by omega⟩
  | 2 => ⟨8 + (i.val + 2) % 4, by omega⟩
  | 3 => ⟨12 + (i.val + 3) % 4, by omega⟩

/-- The four columns have no word in common (R80). -/
theorem colWord_injective : Function.Injective2 colWord := by
  unfold Function.Injective2
  decide

/-- The four diagonals have no word in common (R81). -/
theorem diagWord_injective : Function.Injective2 diagWord := by
  unfold Function.Injective2
  decide

/-- One write to a block, read at any index (R7). -/
theorem Quad.word_setWord {α : Type} (x : Matrix4 α) (i j : Fin 16) (v : α) :
    (Quad.setWord x i v).word j = if j = i then v else x.word j := by
  split_ifs with hj
  · rw [hj, Quad.word_setWord_self]
  · exact Quad.word_setWord_ne x i j v hj

section Phases

variable {α : Type} (q : QuarterRound α) {w : Fin 4 → Fin 4 → Fin 16}

/-- The result of quarter round `i` on the words of `x`, in a phase with word indices `w`. -/
def phaseQr (w : Fin 4 → Fin 4 → Fin 16) (x : Matrix4 α) (i : Fin 4) : Quad α :=
  q (x.word (w i 0)) (x.word (w i 1)) (x.word (w i 2)) (x.word (w i 3))

/-- `y` with that quarter round of `x` written to the words it is of: one quarter round of a phase. -/
def phaseStep (w : Fin 4 → Fin 4 → Fin 16) (x y : Matrix4 α) (i : Fin 4) : Matrix4 α :=
  qrAt q x y (w i 0) (w i 1) (w i 2) (w i 3)

theorem colQr_eq_phaseStep : colQr q = phaseStep q colWord := rfl

theorem diagQr_eq_phaseStep : diagQr q = phaseStep q diagWord := rfl

/-- Four disjoint groups of four words are all sixteen. -/
theorem exists_phase_index (hw : Function.Injective2 w) (j : Fin 16) : ∃ i k, w i k = j := by
  obtain ⟨⟨i, k⟩, hj⟩ := ((Fintype.bijective_iff_injective_and_card _).mpr ⟨hw.uncurry, rfl⟩).surjective j
  exact ⟨i, k, hj⟩

theorem word_phaseStep_self (hw : Function.Injective2 w) (x y : Matrix4 α) (i k : Fin 4) :
    (phaseStep q w x y i).word (w i k) = (phaseQr q w x i).get k := by
  match k with
  | 0 | 1 | 2 | 3 => simp [phaseStep, qrAt, phaseQr, Quad.word_setWord, hw.eq_iff, Quad.get]

theorem word_phaseStep_ne (hw : Function.Injective2 w) (x y : Matrix4 α) {i i' : Fin 4} (hi : i ≠ i') (k : Fin 4) :
    (phaseStep q w x y i').word (w i k) = y.word (w i k) := by
  simp [phaseStep, qrAt, Quad.word_setWord, hw.eq_iff, hi]

/-- A quarter round reads no word that another quarter round of the phase writes. -/
theorem phaseQr_phaseStep_ne (hw : Function.Injective2 w) (x y : Matrix4 α) {i i' : Fin 4} (hi : i ≠ i') :
    phaseQr q w (phaseStep q w x y i') i = phaseQr q w y i := by
  simp only [phaseQr, word_phaseStep_ne q hw x y hi]

/-- The words after quarter rounds that all read `x` (R80, R81). -/
theorem word_phaseAtOnce (hw : Function.Injective2 w) (order : List (Fin 4)) (x y : Matrix4 α) (i k : Fin 4) :
    (order.foldl (phaseStep q w x) y).word (w i k) =
      if i ∈ order then (phaseQr q w x i).get k else y.word (w i k) := by
  induction order generalizing y with
  | nil => rfl
  | cons i' order ih =>
    rw [List.foldl_cons, ih]
    by_cases hi : i = i'
    · simp [← hi, word_phaseStep_self q hw]
    · simp [hi, word_phaseStep_ne q hw x y hi]

/-- The words after quarter rounds in place, each at most once (R78): none has read what another wrote. -/
theorem word_phaseInPlace (hw : Function.Injective2 w) {order : List (Fin 4)} (hnodup : order.Nodup) (x : Matrix4 α)
    (i k : Fin 4) :
    (order.foldl (fun y i => phaseStep q w y y i) x).word (w i k) =
      if i ∈ order then (phaseQr q w x i).get k else x.word (w i k) := by
  induction order generalizing x with
  | nil => rfl
  | cons i' order ih =>
    obtain ⟨hnotin, hrest⟩ := List.nodup_cons.mp hnodup
    rw [List.foldl_cons, ih hrest]
    by_cases hi : i = i'
    · simp [hi, hnotin, word_phaseStep_self q hw]
    · simp [hi, phaseQr_phaseStep_ne q hw x x hi, word_phaseStep_ne q hw x x hi]

/-- In place and in any order the four quarter rounds give the phase (R78, R85). -/
theorem phaseInPlace_eq_phaseAtOnce (hw : Function.Injective2 w) {order : List (Fin 4)}
    (horder : order.Perm [0, 1, 2, 3]) (x : Matrix4 α) :
    order.foldl (fun y i => phaseStep q w y y i) x = [0, 1, 2, 3].foldl (phaseStep q w x) x := by
  have hnodup : order.Nodup := horder.nodup_iff.mpr (by decide)
  refine Quad.ext_word fun j => ?_
  obtain ⟨i, k, rfl⟩ := exists_phase_index hw j
  simp only [word_phaseInPlace q hw hnodup, word_phaseAtOnce q hw, horder.mem_iff]

end Phases

/-- Settles O11: columns, and diagonals, are phases on disjoint words. -/
theorem phaseInAnyOrder : Obligations.PhaseInAnyOrder := by
  intro order x horder
  rw [colroundInOrder, colround, colroundWith, colQr_eq_phaseStep, diagroundInOrder, diaground, diagroundWith,
    diagQr_eq_phaseStep]
  exact ⟨phaseInPlace_eq_phaseAtOnce qr colWord_injective horder x,
    phaseInPlace_eq_phaseAtOnce qr diagWord_injective horder x⟩

end Sys2Proof

/-! ### PERMUTE from its phases: words, composition, the inverse, the row path (R80 to R89)

A phase is its four quarter rounds, each on its own words (`word_phaseRound`). PERMUTE is an iterate of the double
round, so its laws are those of iterates. -/

namespace Sys2Proof

open Machine

section PhaseRounds

variable {α : Type} (q : QuarterRound α) {w : Fin 4 → Fin 4 → Fin 16}

/-- The phase with word indices `w`: its four quarter rounds, all reading `x` (R80, R81). -/
def phaseRound (w : Fin 4 → Fin 4 → Fin 16) (x : Matrix4 α) : Matrix4 α := [0, 1, 2, 3].foldl (phaseStep q w x) x

/-- The words a phase leaves are the quarter rounds of the words before (R80, R81). -/
theorem word_phaseRound (hw : Function.Injective2 w) (x : Matrix4 α) (i k : Fin 4) :
    (phaseRound q w x).word (w i k) = (phaseQr q w x i).get k := by
  have hi : i ∈ [0, 1, 2, 3] := by
    revert i
    decide
  rw [phaseRound, word_phaseAtOnce q hw, if_pos hi]

/-- The phase of a quarter round that undoes `q` undoes the phase of `q` (R84). -/
theorem phaseRound_undo (hw : Function.Injective2 w) {q q' : QuarterRound α}
    (hundo : ∀ a b c d, q' (q a b c d).q0 (q a b c d).q1 (q a b c d).q2 (q a b c d).q3 = ⟨a, b, c, d⟩) :
    Function.LeftInverse (phaseRound q' w) (phaseRound q w) := by
  intro x
  refine Quad.ext_word fun j => ?_
  obtain ⟨i, k, rfl⟩ := exists_phase_index hw j
  have hback : phaseQr q' w (phaseRound q w x) i = Quad.ofFn fun k => x.word (w i k) := by
    simp only [phaseQr, word_phaseRound q hw]
    exact hundo _ _ _ _
  rw [word_phaseRound q' hw, hback, Quad.get_ofFn]

@[simp] theorem word_blockOf (v : Word) (j : Fin 16) : (blockOf v).word j = v := by
  have hrows : blockOf v = Quad.ofFn fun _ => Quad.ofFn fun _ => v := rfl
  rw [hrows, Quad.word, Quad.get_ofFn, Quad.get_ofFn]

/-- QR fixes the all-zero words, so its phases fix the all-zero block (R75, R83). -/
theorem phaseRound_zeroBlock (hw : Function.Injective2 w) : phaseRound qr w (blockOf 0#32) = blockOf 0#32 := by
  refine Quad.ext_word fun j => ?_
  obtain ⟨i, k, rfl⟩ := exists_phase_index hw j
  have hzero : phaseQr qr w (blockOf 0#32) i = Quad.ofFn fun _ => 0#32 := by
    simp only [phaseQr, word_blockOf]
    rfl
  rw [word_phaseRound qr hw, hzero, Quad.get_ofFn, word_blockOf]

end PhaseRounds

/-- One inverse double round: QRINV on the diagonals, then on the columns (R84). -/
def doubleroundInv (x : Block) : Block := colroundInv (diagroundInv x)

section Phases

variable (x : Block)

theorem word_colround (i k : Fin 4) : (colround x).word (colWord i k) = (phaseQr qr colWord x i).get k :=
  word_phaseRound qr colWord_injective x i k

theorem word_diaground (i k : Fin 4) : (diaground x).word (diagWord i k) = (phaseQr qr diagWord x i).get k :=
  word_phaseRound qr diagWord_injective x i k

/-- The double round, phase by phase (R82). -/
theorem doubleround_eq : doubleround x = phaseRound qr diagWord (phaseRound qr colWord x) := rfl

/-- The inverse double round, phase by phase (R84). -/
theorem doubleroundInv_eq : doubleroundInv x = phaseRound qrinv colWord (phaseRound qrinv diagWord x) := rfl

theorem doubleround_zeroBlock : doubleround (blockOf 0#32) = blockOf 0#32 := by
  rw [doubleround_eq, phaseRound_zeroBlock colWord_injective, phaseRound_zeroBlock diagWord_injective]

theorem doubleroundInv_leftInverse : Function.LeftInverse doubleroundInv doubleround := by
  intro x
  rw [doubleroundInv_eq, doubleround_eq, phaseRound_undo diagWord_injective qrinv_qr,
    phaseRound_undo colWord_injective qrinv_qr]

theorem doubleroundInv_rightInverse : Function.RightInverse doubleroundInv doubleround := by
  intro x
  rw [doubleroundInv_eq, doubleround_eq, phaseRound_undo colWord_injective qr_qrinv,
    phaseRound_undo diagWord_injective qr_qrinv]

end Phases

/-- Settles O8: the words of a phase, at the indices of its columns or diagonals. -/
theorem columnAndDiagonalWords : Obligations.ColumnAndDiagonalWords := fun x i =>
  ⟨⟨word_colround x i 0, word_colround x i 1, word_colround x i 2, word_colround x i 3⟩,
    word_diaground x i 0, word_diaground x i 1, word_diaground x i 2, word_diaground x i 3⟩

/-- Double rounds are iterates of the double round (R82, R83). -/
theorem doubleRoundsWith_eq_iterate {α : Type} (q : QuarterRound α) (n : Nat) (x : Matrix4 α) :
    doubleRoundsWith q n x = (doubleroundWith q)^[n] x := by
  induction n generalizing x with
  | zero => rfl
  | succ n ih => rw [doubleRoundsWith, ih, Function.iterate_succ_apply]

theorem doubleRoundsInv_eq_iterate (n : Nat) (x : Block) : doubleRoundsInv n x = doubleroundInv^[n] x := by
  induction n generalizing x with
  | zero => rfl
  | succ n ih =>
    rw [doubleRoundsInv, ih, Function.iterate_succ_apply]
    rfl

section Permute

variable (x : Block) {r s : Nat}

theorem permute_eq_iterate (r : Nat) : permute x r = doubleround^[r / 2] x := doubleRoundsWith_eq_iterate qr (r / 2) x

theorem permuteInv_eq_iterate (r : Nat) : permuteInv x r = doubleroundInv^[r / 2] x :=
  doubleRoundsInv_eq_iterate (r / 2) x

/-- Even round counts add up (R83). -/
theorem permute_add (hr : r % 2 = 0) : permute x (r + s) = permute (permute x r) s := by
  have hhalf : (r + s) / 2 = s / 2 + r / 2 := by omega
  simp only [permute_eq_iterate, hhalf, Function.iterate_add_apply]

/-- The all-zero block is a fixed point (R83). -/
theorem permute_zeroBlock (r : Nat) : permute (blockOf 0#32) r = blockOf 0#32 := by
  rw [permute_eq_iterate, Function.iterate_fixed doubleround_zeroBlock]

theorem permuteInv_permute (r : Nat) : permuteInv (permute x r) r = x := by
  rw [permuteInv_eq_iterate, permute_eq_iterate]
  exact doubleroundInv_leftInverse.iterate (r / 2) x

theorem permute_permuteInv (r : Nat) : permute (permuteInv x r) r = x := by
  rw [permuteInv_eq_iterate, permute_eq_iterate]
  exact doubleroundInv_rightInverse.iterate (r / 2) x

end Permute

/-- Settles O9: PERMUTE iterates the double round, which fixes the all-zero block. -/
theorem permuteComposes : Obligations.PermuteComposes :=
  ⟨fun _ => rfl, fun x _ hr => permute_add x hr, fun x _ _ hr _ => permute_add x hr, fun r _ => permute_zeroBlock r⟩

/-- Settles O10: the iterates of a double round and of its inverse undo each other. -/
theorem permuteIsBijective : Obligations.PermuteIsBijective := fun r _ =>
  have hleft : ∀ x, permuteInv (permute x r) r = x := fun x => permuteInv_permute x r
  have hright : ∀ x, permute (permuteInv x r) r = x := fun x => permute_permuteInv x r
  ⟨Function.bijective_iff_has_inverse.mpr ⟨fun x => permuteInv x r, hleft, hright⟩, hleft, hright⟩

/-- Settles O14: two row rounds are a double round, so an even number of them is PERMUTE. -/
theorem rowPathEqualsReference : Obligations.RowPathEqualsReference :=
  ⟨rowround_columns, rowround_diagonals, rowround_rowround, fun x _ hr => rowRounds_eq_permute hr x⟩

section RowLanes

variable {α : Type} (r : Quad α)

@[simp] theorem get_lanerot (n i : Fin 4) : (lanerot r n).get i = r.get (i + n) := Quad.get_ofFn _ i

/-- Rotating a row on by the negated amount restores it (R86). -/
@[simp] theorem lanerot_lanerot_neg (n : Fin 4) : lanerot (lanerot r n) (-n) = r :=
  Quad.ext_get fun i => by rw [get_lanerot, get_lanerot, neg_add_cancel_right]

/-- Two blocks with the same four columns are the same block. -/
theorem Quad.ext_column {x y : Matrix4 α}
    (h : ∀ i, x.map (fun r => r.get i) = y.map (fun r => r.get i)) : x = y := by
  refine Quad.ext_get fun k => Quad.ext_get fun i => ?_
  simpa using congrArg (Quad.get · k) (h i)

end RowLanes

/-- Settles O12: the lane index is a sum modulo 4, and `4 - n` is the negated amount modulo 4. -/
theorem laneRotationRule : Obligations.LaneRotationRule := fun r n =>
  ⟨fun i => get_lanerot r n i, lanerot_lanerot_neg r n⟩

section RowQuarterRound

variable (x : Block) (i : Fin 4)

/-- Column `i` after ROWQR is the quarter round of column `i` (R87). -/
theorem column_rowqr :
    (rowqr x).map (fun r => r.get i) = qr (x.q0.get i) (x.q1.get i) (x.q2.get i) (x.q3.get i) := by
  simp only [rowqr, Quad.map, Quad.get_ofFn]

theorem word_colWord {α : Type} (x : Matrix4 α) (i k : Fin 4) : x.word (colWord i k) = (Quad.get x k).get i := by
  have hindex : ∀ i k, rowIndex (colWord i k) = k ∧ colIndex (colWord i k) = i := by decide
  rw [Quad.word, (hindex i k).1, (hindex i k).2]

/-- Column `i` after COLROUND is the quarter round of column `i` (R80). -/
theorem column_colround :
    (colround x).map (fun r => r.get i) = qr (x.q0.get i) (x.q1.get i) (x.q2.get i) (x.q3.get i) := by
  have hqr : phaseQr qr colWord x i = qr (x.q0.get i) (x.q1.get i) (x.q2.get i) (x.q3.get i) := by
    simp only [phaseQr, word_colWord, Quad.get]
  refine Quad.ext_get fun k => ?_
  rw [Quad.get_map, ← word_colWord, word_colround, hqr]

end RowQuarterRound

/-- Settles O13: the three forms have the same columns, each the quarter round of a column. -/
theorem rowQuarterRoundIsColumnPhase : Obligations.RowQuarterRoundIsColumnPhase := fun x =>
  ⟨column_rowqr x,
    Quad.ext_column fun i => (column_rowqr x i).trans (map_get_qrx4 x.q0 x.q1 i x.q2 x.q3).symm,
    Quad.ext_column fun i => (column_rowqr x i).trans (column_colround x i).symm⟩

end Sys2Proof

/-! ### The sequencer's turn and the commands' results (R90 to R95, R112) -/

namespace Sys2Proof.Machine

section SequencerTurns

variable {s : State} {h : List HostEvent}

/-- With no `wait` at their head the host's events stay. -/
theorem passWait_of_head_ne (hwait : s.host.head? ≠ some .wait) : s.passWait = s := by
  unfold State.passWait
  split
  · next hhost => simp [hhost] at hwait
  · rfl

/-- In RUN the turn is the sequencer's when the host waits, when an access is held and no reset comes, and when no event
is left (log entry 1); the events left are `h`. -/
theorem step_of_sequencer_turn (hrun : s.seq = .run)
    (hturn : s.host = .wait :: h ∨
      s.host = h ∧ (s.port ≠ none ∧ ¬ s.resetNext ∧ s.host.head? ≠ some .wait ∨ s.host = [])) :
    step s = .next (State.sequencerTurn { s with host := h }) := by
  rcases hturn with hwait | ⟨rfl, ⟨hport, hreset, hwait⟩ | hhost⟩
  · by_cases hport : s.port = none
    · exact step_of_wait hport hwait
    · obtain ⟨a, ha⟩ := Option.ne_none_iff_exists'.mp hport
      rw [step_of_port_held ha (by simp [State.resetNext, hwait]) hrun, State.passWait, hwait]
  · obtain ⟨a, ha⟩ := Option.ne_none_iff_exists'.mp hport
    rw [step_of_port_held ha hreset hrun, passWait_of_head_ne hwait]
  · exact step_of_no_event hhost hrun

end SequencerTurns

/-- Settles O48: the sequencer's turn in RUN with rounds to run is the round step. -/
theorem roundStepRule : Obligations.RoundStepRule := by
  intro s h hrun hrc hturn
  rw [step_of_sequencer_turn hrun hturn, sequencerTurn_of_run (s := { s with host := h }) hrun, if_neg hrc]
  rfl

/-- Settles O49: the sequencer's turn in RUN with no round to run is the completion step. -/
theorem completionStepRule : Obligations.CompletionStepRule := by
  intro s h hrun hrc hturn
  have hstep := step_of_sequencer_turn hrun hturn
  rw [sequencerTurn_of_run (s := { s with host := h }) hrun, if_pos hrc] at hstep
  refine ⟨_, hstep, rfl, fun j => ?_, fun k j hk => ?_⟩
  · show (Quad.get (State.completionStep _).x 0).word j = _
    rw [completionStep_x]
    split
    · exact Quad.word_zipWords add32 _ _ j
    · rfl
  · show (Quad.get (State.completionStep _).x k).word j = _
    rw [completionStep_x]
    split
    · exact congrArg (Quad.word · j) (Quad.get_set_ne _ 0 k _ hk)
    · rfl

@[simp] theorem commandDone_rc (s : State) : s.commandDone.rc = 0#8 := roundTurns_rc_eq_zero s

/-- Settles O50: RC rounds counted down, then the completion step. -/
theorem runCompletesAfterItsRounds : Obligations.RunCompletesAfterItsRounds := by
  intro s hrun hhost
  refine ⟨fun n hn => ?_, _, stepN_commandDone hhost hrun, rfl, rfl, commandDone_rc s, commandDone_port s⟩
  exact ⟨_, stepN_rounds hhost hrun hn, (roundTurns_seq s n).trans hrun, roundTurns_rc hn, roundTurns_port s n⟩

section CommandDone

variable {s : State}

/-- `s` with what a running command changes taken from `t`: X, RC, PH, SEQ, DONE and the reply (R90, R93). -/
def State.withProgress (s t : State) : State :=
  { s with x := t.x, rc := t.rc, ph := t.ph, seq := t.seq, done := t.done, reply := t.reply }

theorem commandDone_withProgress (s : State) : s.withProgress s.commandDone = s.commandDone :=
  (roundTurns_unchanged (g := fun u => u.withProgress s.commandDone) (fun _ => rfl) s.rc.toNat s).symm

/-- An even number of rounds ends with PH as it was at acceptance, 0 (R90). -/
theorem commandDone_ph (hstart : s.ranRounds 0) : s.commandDone.ph = false := by
  obtain ⟨-, -, hph, -, -⟩ := roundTurns_ranRounds hstart le_rfl
  have hparity : ¬ s.rc.toNat % 2 = 1 := by
    obtain ⟨heven, -⟩ := hstart
    omega
  exact hph.trans (decide_eq_false hparity)

/-- What a command leaves, from its acceptance on, but for X (R90, R93). -/
theorem commandDone_eq (hstart : s.ranRounds 0) :
    s.commandDone =
      { s with x := s.commandDone.x, rc := 0#8, ph := false, seq := .idle, done := true, reply := .noAck } := by
  have hframe := (commandDone_withProgress s).symm
  rw [State.withProgress, commandDone_rc, commandDone_ph hstart] at hframe
  exact hframe

/-- The state a command accepted in `s` starts from, the host presenting nothing more (R104). -/
def State.commandAccepted (s : State) (op : Op) (r : BitVec 8) : State :=
  { s.accept op r with port := none, reply := .written, host := [] }

/-- A command with an even count, from IDLE to its completion (R90, R91, R93, R104). -/
theorem stepN_command {op : Op} {r : BitVec 8} (hidle : s.seq = .idle) (hport : s.port = none)
    (hhost : s.host = [.access (encode (op.instr r))]) (heven : roundsOk r = true) :
    stepN (r.toNat + 2) s = some (s.commandAccepted op r).commandDone := by
  have haccept : step s = .next (s.commandAccepted op r) := by
    rw [step_of_access hport hhost, serve_of_decode (decodeAccess_encode_instr op r)]
    exact exec_instr_accepted hidle heven
  rw [stepN_succ_of_step haccept]
  exact stepN_commandDone (s := s.commandAccepted op r) rfl rfl

/-- Everything but X after a command, against the state in which it was presented. -/
theorem commandDone_commandAccepted_eq {op : Op} {r : BitVec 8} (hidle : s.seq = .idle) (hport : s.port = none)
    (heven : roundsOk r = true) :
    (s.commandAccepted op r).commandDone =
      { s with
        x := (s.commandAccepted op r).commandDone.x, p := s.x.q0, rc := 0#8, ph := false
        opadd := op == .permuteAndAdd, opbatch := op == .batchPermute, done := true, reply := .noAck, host := [] } := by
  have h := commandDone_eq (s := s.commandAccepted op r) (accept_ranRounds s op heven)
  rw [h, hidle, hport]
  rfl

/-- X after a command of one lane: only lane 0 is changed (R94, R95). -/
theorem commandDone_x_of_single (hsingle : s.opbatch = false) :
    s.commandDone.x = ⟨s.commandDone.x.get 0, s.x.q1, s.x.q2, s.x.q3⟩ :=
  Quad.ext_get fun k => match k with
    | 0 => rfl
    | 1 | 2 | 3 => commandDone_otherLane hsingle (by decide)

end CommandDone

/-- Settles O51: an even number of row rounds of lane 0 is PERMUTE, and nothing is added. -/
theorem permuteOnlyResult : Obligations.PermuteOnlyResult := by
  intro s r hidle hport hhost hr
  have heven := (roundsOk_iff r).mpr hr
  have hstart : (s.commandAccepted .permuteOnly r).ranRounds 0 := accept_ranRounds s .permuteOnly heven
  have hx := commandDone_x_of_single (s := s.commandAccepted .permuteOnly r) rfl
  rw [commandDone_lane0 hstart heven rfl rfl] at hx
  have hdone := commandDone_commandAccepted_eq (op := .permuteOnly) hidle hport heven
  rw [hx] at hdone
  exact ⟨_, stepN_command (op := .permuteOnly) hidle hport hhost heven, hdone⟩

/-- Settles O52: as for PERMUTE_ONLY, with P, which holds the input, added at completion. -/
theorem permuteAndAddResult : Obligations.PermuteAndAddResult := by
  intro s r hidle hport hhost hr
  have heven := (roundsOk_iff r).mpr hr
  have hstart : (s.commandAccepted .permuteAndAdd r).ranRounds 0 := accept_ranRounds s .permuteAndAdd heven
  have hx := commandDone_x_of_single (s := s.commandAccepted .permuteAndAdd r) rfl
  have hdone := commandDone_commandAccepted_eq (op := .permuteAndAdd) hidle hport heven
  refine ⟨_, stepN_command (op := .permuteAndAdd) hidle hport hhost heven, fun j => ?_, ?_⟩
  · rw [commandDone_word rfl (commandDone_lane0_added hstart heven rfl rfl), if_pos rfl]
    exact Quad.word_zipWords add32 _ _ j
  · rw [hx] at hdone
    exact hdone

/-- Settles O53: each lane runs its row rounds on its promoted block. -/
theorem batchPermuteResult : Obligations.BatchPermuteResult := by
  intro s r hidle hport hhost hr
  have heven := (roundsOk_iff r).mpr hr
  have hstart : (s.commandAccepted .batchPermute r).ranRounds 0 := accept_ranRounds s .batchPermute heven
  exact ⟨_, stepN_command (op := .batchPermute) hidle hport hhost heven,
    commandDone_batchLane hstart heven rfl rfl, commandDone_commandAccepted_eq hidle hport heven⟩

end Sys2Proof.Machine

/-! ### A block as 64 bytes (R102)

A word is its four bytes, as a number and byte by byte; `decode` and `encode` are that for every word of a block. -/

namespace Sys2Proof

/-- Word `j` of a block given word by word (R7). -/
@[simp] theorem Quad.word_ofWords {α : Type} (f : Fin 16 → α) (j : Fin 16) : (Quad.ofWords f).word j = f j := by
  fin_cases j <;> rfl

namespace Machine

/-- A byte appended below a value shifts the value by eight bits. -/
theorem toNat_append_byte {n : Nat} (v : BitVec n) (b : Byte) : (v ++ b).toNat = 2 ^ 8 * v.toNat + b.toNat := by
  rw [BitVec.toNat_append, ← Nat.shiftLeft_add_eq_or_of_lt b.isLt, Nat.shiftLeft_eq, Nat.mul_comm]

/-- Four bytes are a word little-endian (R102). -/
theorem toNat_wordOfBytes (b0 b1 b2 b3 : Byte) :
    (wordOfBytes b0 b1 b2 b3).toNat = b0.toNat + 2 ^ 8 * b1.toNat + 2 ^ 16 * b2.toNat + 2 ^ 24 * b3.toNat := by
  rw [wordOfBytes, toNat_append_byte, toNat_append_byte, toNat_append_byte]
  omega

/-- Byte `i` of the word of four bytes is byte `i` of the four (R32, R102). -/
theorem byteOfWord_wordOfBytes (b : Fin 4 → Byte) (i : Fin 4) :
    byteOfWord (wordOfBytes (b 0) (b 1) (b 2) (b 3)) i.val = b i :=
  match i with
  | 0 => BitVec.extractLsb'_append_eq_right
  | 1 => (BitVec.extractLsb'_append_eq_of_le (by decide)).trans BitVec.extractLsb'_append_eq_right
  | 2 =>
    (BitVec.extractLsb'_append_eq_of_le (by decide)).trans
      ((BitVec.extractLsb'_append_eq_of_le (by decide)).trans BitVec.extractLsb'_append_eq_right)
  | 3 =>
    (BitVec.extractLsb'_append_eq_of_le (by decide)).trans
      ((BitVec.extractLsb'_append_eq_of_le (by decide)).trans BitVec.extractLsb'_append_eq_left)

/-- The four bytes of a word are the word (R102). -/
theorem wordOfBytes_byteOfWord (w : Word) :
    wordOfBytes (byteOfWord w 0) (byteOfWord w 1) (byteOfWord w 2) (byteOfWord w 3) = w := by
  have hhigh : byteOfWord w 3 ++ byteOfWord w 2 = w.extractLsb' 16 16 :=
    BitVec.extractLsb'_append_extractLsb'_eq_extractLsb' rfl
  have hthree : w.extractLsb' 16 16 ++ byteOfWord w 1 = w.extractLsb' 8 24 :=
    BitVec.extractLsb'_append_extractLsb'_eq_extractLsb' rfl
  have hall : w.extractLsb' 8 24 ++ byteOfWord w 0 = w.extractLsb' 0 32 :=
    BitVec.extractLsb'_append_extractLsb'_eq_extractLsb' rfl
  rw [wordOfBytes, hhigh, hthree, hall, BitVec.extractLsb'_eq_self]

/-- Word `j` of a decoded block is made of the bytes `4j` to `4j + 3` (R102). -/
theorem word_decodeBlock (b : Fin 64 → Byte) (j : Fin 16) :
    (decodeBlock b).word j =
      wordOfBytes (b ⟨4 * j.val, by omega⟩) (b ⟨4 * j.val + 1, by omega⟩) (b ⟨4 * j.val + 2, by omega⟩)
        (b ⟨4 * j.val + 3, by omega⟩) :=
  Quad.word_ofWords _ j

theorem encodeBlock_decodeBlock (b : Fin 64 → Byte) (m : Fin 64) : encodeBlock (decodeBlock b) m = b m := by
  obtain ⟨j, i, rfl⟩ : ∃ (j : Fin 16) (i : Fin 4), m = ⟨4 * j.val + i.val, by omega⟩ :=
    ⟨⟨m.val / 4, by omega⟩, ⟨m.val % 4, by omega⟩, Fin.ext (Nat.div_add_mod m.val 4).symm⟩
  rw [encodeBlock_word, word_decodeBlock]
  exact byteOfWord_wordOfBytes (fun i => b ⟨4 * j.val + i.val, by omega⟩) i

theorem decodeBlock_encodeBlock (w : Block) : decodeBlock (encodeBlock w) = w := by
  refine Quad.ext_word fun j => ?_
  have hbyte := encodeBlock_word w j
  rw [word_decodeBlock, ← wordOfBytes_byteOfWord (w.word j)]
  exact congr (congr (congrArg₂ wordOfBytes (hbyte 0) (hbyte 1)) (hbyte 2)) (hbyte 3)

/-- Settles O17: both directions are word by word the four bytes of a word. -/
theorem blockBytesRoundTrip : Obligations.BlockBytesRoundTrip :=
  ⟨fun b j => (congrArg BitVec.toNat (word_decodeBlock b j)).trans (toNat_wordOfBytes _ _ _ _), encodeBlock_word,
    encodeBlock_decodeBlock, decodeBlock_encodeBlock⟩

/-! ### STATUS reads and CMD writes (R103 to R105) -/

section StatusFields

variable (s : State)

theorem status_bit3 : s.status.getLsbD 3 = false := by
  rw [State.status, BitVec.getLsbD_append, if_neg (by decide), BitVec.getLsbD_append, if_neg (by decide),
    BitVec.getLsbD_append, if_neg (by decide), BitVec.getLsbD_append]
  simp

/-- What stands above the four flag bits of STATUS (R57). -/
theorem status_above_flags (k n : Nat) : s.status.extractLsb' (4 + k) n = (0#24 ++ s.errcode).extractLsb' k n := by
  rw [State.status, BitVec.extractLsb'_append_eq_of_le (by omega), BitVec.extractLsb'_append_eq_of_le (by omega),
    BitVec.extractLsb'_append_eq_of_le (by omega), BitVec.extractLsb'_append_eq_of_le (by omega)]
  congr 1
  omega

theorem status_errcode : s.status.extractLsb' 4 4 = s.errcode :=
  (status_above_flags s 0 4).trans BitVec.extractLsb'_append_eq_right

theorem status_high : s.status.extractLsb' 8 24 = 0#24 :=
  (status_above_flags s 4 24).trans BitVec.extractLsb'_append_eq_left

end StatusFields

/-- Settles O41: RD_STATUS answers STATUS, and each field of STATUS is read off its layout. -/
theorem rdStatusAnswersStatus : Obligations.RdStatusAnswersStatus := fun s =>
  ⟨s.status, exec_rdStatus s, status_bit0 s, status_bit1 s, status_bit2 s, status_bit3 s, status_errcode s,
    status_high s⟩

/-- Settles O44: an even count is accepted, and acceptance writes these fields. -/
theorem commandsAccepted : Obligations.CommandsAccepted := fun _ r _ hidle hr =>
  exec_instr_accepted hidle ((roundsOk_iff r).mpr hr)

/-- An OP field names no operation exactly when it is none of 1, 2 and 3 (R54, R56). -/
theorem opOfField_eq_none_iff (f : BitVec 4) : opOfField f = none ↔ ¬ (f = 1#4 ∨ f = 2#4 ∨ f = 3#4) := by
  revert f
  decide

/-- Settles O43: in IDLE the three branches of the command write, in the order of R123; else R39 and R40. -/
theorem wrCmdDecodesItsWord : Obligations.WrCmdDecodesItsWord := by
  intro v s
  have hrsvField : v.extractLsb' 12 20 = cmdRsv v := rfl
  have hopField : v.extractLsb' 8 4 = cmdOp v := rfl
  simp only [exec_wrCmd, hrsvField, hopField, ← opOfField_eq_none_iff]
  refine ⟨fun hidle => ?_, answerWrite_cmdWrite_run _ _, answerWrite_cmdWrite_fault _ _⟩
  have hlegal {op : Op} (hrsv : cmdRsv v = 0#20) (hop : opOfField (cmdOp v) = some op) :
      ¬ (cmdRsv v ≠ 0#20 ∨ opOfField (cmdOp v) = none) := by simp [hrsv, hop]
  rw [answerWrite_cmdWrite_idle _ _ hidle]
  rcases writeCmd_cases s v with ⟨hill, hw⟩ | ⟨op, hrsv, hop, hodd, hw⟩ | ⟨op, hrsv, hop, heven, hw⟩
  · rw [hw, if_pos hill]
    rfl
  · rw [hw, if_neg (hlegal hrsv hop), if_pos hodd]
    rfl
  · rw [hw, if_neg (hlegal hrsv hop), if_neg (ne_true_of_eq_false heven), (opOfField_eq_some_iff op _).mp hop]
    cases op <;> rfl

/-- Settles O60: reset is in IDLE, and an accepted command has run no round (R104, R140). -/
theorem acceptanceStartsCommandProgress : Obligations.AcceptanceStartsCommandProgress := by
  refine ⟨nofun, fun op r s t hidle hr hexec => ?_⟩
  have heven := (roundsOk_iff r).mpr hr
  cases (exec_instr_accepted hidle heven).symm.trans hexec
  exact ⟨rfl, accept_ranRounds s op heven, beq_iff_eq.symm, beq_iff_eq.symm⟩

end Machine

end Sys2Proof

/-! ### The batch (R77, R110, R111, R113)

QRx4 is QR in each batch lane, so picking a lane out of QuadLane values commutes with every phase, and so with the
double rounds: `mapWords_doubleRoundsWith`. -/

namespace Sys2Proof

open Machine

section Promote

variable (base : Block)

@[simp] theorem get_promote (k : Fin 4) : (promote base).get k = promoteLane base k := Quad.get_ofFn _ k

theorem get_promote_zero : (promote base).get 0 = base := (get_promote base 0).trans (promoteLane_zero base)

end Promote

/-- Settles O15: a lane of PROMOTE is one write to word 12 of the base, and that write adds 0 in lane 0. -/
theorem promoteAddsLaneToCounter : Obligations.PromoteAddsLaneToCounter := by
  intro base k
  rw [get_promote]
  exact ⟨fun _ hj => Quad.word_setWord_ne _ _ _ _ hj, Quad.word_setWord_self _ _ _, get_promote_zero base⟩

/-- A function applied to each of the 16 words. -/
def Quad.mapWords {α β : Type} (f : α → β) (x : Matrix4 α) : Matrix4 β := Quad.map (Quad.map f) x

@[simp] theorem Quad.word_mapWords {α β : Type} (f : α → β) (x : Matrix4 α) (j : Fin 16) :
    (Quad.mapWords f x).word j = f (x.word j) := by
  rw [Quad.word, Quad.mapWords, Quad.get_map, Quad.get_map, Quad.word]

/-- The double round over any quarter round, phase by phase (R82). -/
theorem doubleroundWith_eq_comp {α : Type} (q : QuarterRound α) :
    doubleroundWith q = phaseRound q diagWord ∘ phaseRound q colWord := by
  funext x
  rw [doubleroundWith, diagroundWith, colroundWith, diagQr_eq_phaseStep, colQr_eq_phaseStep, Function.comp_apply,
    phaseRound, phaseRound]

section WordwiseRounds

variable {α β : Type} {f : α → β} {q : QuarterRound α} {q' : QuarterRound β}
  (hq : ∀ a b c d, (q a b c d).map f = q' (f a) (f b) (f c) (f d))

include hq

/-- A map of words that commutes with the quarter round commutes with a phase of it (R80, R81). -/
theorem mapWords_phaseRound {w : Fin 4 → Fin 4 → Fin 16} (hw : Function.Injective2 w) :
    Function.Semiconj (Quad.mapWords f) (phaseRound q w) (phaseRound q' w) := by
  intro x
  refine Quad.ext_word fun j => ?_
  obtain ⟨i, k, rfl⟩ := exists_phase_index hw j
  have hquarter : (phaseQr q w x i).map f = phaseQr q' w (Quad.mapWords f x) i := by
    simp only [phaseQr, Quad.word_mapWords, hq]
  rw [Quad.word_mapWords, word_phaseRound q hw, word_phaseRound q' hw, ← hquarter, Quad.get_map]

/-- It commutes with the double round, a column phase and then a diagonal phase (R82). -/
theorem mapWords_doubleroundWith :
    Function.Semiconj (Quad.mapWords f) (doubleroundWith q) (doubleroundWith q') := by
  rw [doubleroundWith_eq_comp, doubleroundWith_eq_comp]
  exact (mapWords_phaseRound hq diagWord_injective).comp_right (mapWords_phaseRound hq colWord_injective)

/-- It commutes with any number of double rounds (R83). -/
theorem mapWords_doubleRoundsWith (n : Nat) :
    Function.Semiconj (Quad.mapWords f) (doubleRoundsWith q n) (doubleRoundsWith q' n) := by
  intro x
  rw [doubleRoundsWith_eq_iterate, doubleRoundsWith_eq_iterate]
  exact (mapWords_doubleroundWith hq).iterate_right n x

end WordwiseRounds

section QuadLanes

/-- Lane `k` of the QuadLane view is lane `k` (R12). -/
@[simp] theorem mapWords_get_quadLanes (x : Lanes) (k : Fin 4) :
    Quad.mapWords (fun v => v.get k) (quadLanes x) = x.get k :=
  Quad.ext_word fun j => by rw [Quad.word_mapWords, quadLanes, Quad.word_ofWords, Quad.get_ofFn]

/-- QuadLane values with the same four lanes are the same. -/
theorem Quad.ext_lane {α : Type} {x y : Matrix4 (Quad α)}
    (h : ∀ k, Quad.mapWords (fun v => v.get k) x = Quad.mapWords (fun v => v.get k) y) : x = y := by
  refine Quad.ext_word fun j => Quad.ext_get fun k => ?_
  simpa using congrArg (fun z => Quad.word z j) (h k)

/-- The double rounds over QuadLane values run the scalar double rounds in every lane (R77, R111). -/
theorem quadLanes_map_doubleRounds (x : Lanes) (n : Nat) :
    quadLanes (x.map fun b => doubleRoundsWith qr n b) = doubleRoundsWith qrx4 n (quadLanes x) := by
  refine Quad.ext_lane fun k => ?_
  have hlane := mapWords_doubleRoundsWith (fun a b c d => map_get_qrx4 a b k c d) n (quadLanes x)
  rw [hlane, mapWords_get_quadLanes, mapWords_get_quadLanes, Quad.get_map]

end QuadLanes

theorem get_batch (base : Block) (r : Nat) (k : Fin 4) : (batch base r).get k = permute ((promote base).get k) r :=
  Quad.get_map _ _ k

/-- Settles O16: BATCH permutes each promoted lane by definition, and QRx4 runs the scalar rounds in every lane. -/
theorem batchLanesAreScalarPermutations : Obligations.BatchLanesAreScalarPermutations := by
  refine fun base r _ => ⟨fun k => ?_, ?_, quadLanes_map_doubleRounds (promote base) (r / 2)⟩
  · rw [get_batch, get_promote, promoteLane]
  · rw [get_batch, get_promote_zero]

end Sys2Proof

/-! ### Refused accesses and odd round counts (R120, R121, R124)

`serve_eq_refuse_iff` ties R121's list to the ordered checks of R33 and R34, which every access passes through. -/

namespace Sys2Proof.Machine

section RefusedChecks

variable (s : State)

theorem answerRead_eq_refuse_iff (a : Access) (r : ReadResult) : s.answerRead a r = .next s.refuse ↔ r = .refused := by
  cases r <;> simp [State.answerRead, State.refuse, State.hold]

theorem answerWrite_eq_refuse_iff (a : Access) (r : WriteResult) :
    s.answerWrite a r = .next s.refuse ↔ r = .refused := by
  cases r <;> simp [State.answerWrite, State.refuse, State.hold]

/-- A command write is refused in FAULT only (R40). -/
theorem cmdWrite_eq_refused_iff (f : State → State) : s.cmdWrite f = .refused ↔ s.seq = .fault := by
  rcases cmdWrite_cases s f with ⟨hseq, hw⟩ | ⟨hseq, hw⟩ | ⟨hseq, hw⟩ <;> simp [hseq, hw]

/-- The byte counts the checks let pass are those of every size code but 3 (R33, R51). -/
theorem sizeBytes_allowed_iff : ∀ size : BitVec 2, (sizeBytes size = 1 ∨ sizeBytes size = 2 ∨ sizeBytes size = 4) ↔
    size ≠ 3#2 := by decide

/-- A check answers `x` when it applies or when what follows it answers `x`. -/
theorem ite_eq_left_iff_or {α : Type} {p : Prop} [Decidable p] {x y : α} : (if p then x else y) = x ↔ p ∨ y = x :=
  ite_eq_left_iff.trans or_iff_not_imp_left.symm

variable (off : BitVec 9) (size : BitVec 2)

/-- The reads refused by the checks of R33: a check that does not apply leaves the answer to the next. -/
theorem memRead_eq_refused_iff :
    s.memRead off (sizeBytes size) = .refused ↔
      size = 3#2 ∨ off.toNat % sizeBytes size ≠ 0 ∨ 0x108 ≤ off.toNat ∨ atCmd off ∨ (atStatus off ∧ size ≠ 2#2) := by
  simp only [State.memRead, ite_eq_left_iff_or, sizeBytes_allowed_iff, ne_eq, not_not]
  refine or_congr_right (or_congr_right (or_congr_right (or_congr_right ?_)))
  rw [← sizeBytes_eq_four_iff]
  by_cases hstatus : atStatus off
  · rw [if_pos hstatus, ite_eq_left_iff_or, and_iff_right hstatus]
    simp
  · rw [if_neg hstatus]
    exact iff_of_false (by split <;> simp) fun h => hstatus h.1

/-- The writes refused by the checks of R34: a check that does not apply leaves the answer to the next. -/
theorem memWrite_eq_refused_iff (v : Word) :
    s.memWrite off (sizeBytes size) v = .refused ↔
      size = 3#2 ∨ off.toNat % sizeBytes size ≠ 0 ∨ 0x108 ≤ off.toNat ∨ atStatus off ∨
        (atCmd off ∧ (size ≠ 2#2 ∨ s.seq = .fault)) := by
  simp only [State.memWrite, ite_eq_left_iff_or, sizeBytes_allowed_iff, ne_eq, not_not]
  refine or_congr_right (or_congr_right (or_congr_right (or_congr_right ?_)))
  rw [← sizeBytes_eq_four_iff]
  by_cases hcmd : atCmd off
  · rw [if_pos hcmd, ite_eq_left_iff_or, cmdWrite_eq_refused_iff, and_iff_right hcmd]
  · rw [if_neg hcmd]
    exact iff_of_false (by split <;> simp) fun h => hcmd h.1

end RefusedChecks

/-- The only aligned four-byte offset of CMD is 0x100 (R31). -/
theorem atCmd_iff_of_aligned {off : BitVec 9} (haligned : off.toNat % sizeBytes 2#2 = 0) :
    atCmd off ↔ off = 0x100#9 := by
  have h4 : off.toNat % 4 = 0 := haligned
  refine ⟨fun ⟨hlow, hhigh⟩ => BitVec.eq_of_toNat_eq ?_, ?_⟩
  · rw [BitVec.toNat_ofNat]
    omega
  · rintro rfl
    decide

/-- A write is in R121's list exactly when a check of R34 refuses it. -/
theorem refusedCase_write_iff {a : Access} (hwe : a.we = true) (s : State) (v : Word) :
    refusedCase a s.seq ↔ s.memWrite a.addr (sizeBytes a.size) v = .refused := by
  rw [memWrite_eq_refused_iff, refusedCase, hwe]
  refine or_congr_right (or_congr_right' fun haligned => or_congr_right ?_)
  by_cases hsize : a.size = 2#2
  · have hcmd := atCmd_iff_of_aligned (hsize ▸ not_not.mp haligned)
    simp [hsize, hcmd]
  · simp [hsize, or_comm, or_left_comm]

/-- A read is in R121's list exactly when a check of R33 refuses it. -/
theorem refusedCase_read_iff {a : Access} (hwe : a.we = false) (s : State) :
    refusedCase a s.seq ↔ s.memRead a.addr (sizeBytes a.size) = .refused := by
  rw [memRead_eq_refused_iff, refusedCase, hwe]
  refine or_congr_right (or_congr_right (or_congr_right ?_))
  by_cases hcmd : atCmd a.addr
  · exact iff_of_true (.inl ⟨rfl, hcmd⟩) (.inl hcmd)
  · simp [hcmd, and_comm]

/-- An access is refused exactly in the cases of R121. -/
theorem serve_eq_refuse_iff (a : Access) (s : State) : serve a s = .next s.refuse ↔ refusedCase a s.seq := by
  rw [serve_eq_checked, State.checked]
  cases hwe : a.we with
  | true =>
    rw [driven_of_write a hwe, if_pos hwe, answerWrite_eq_refuse_iff, ← refusedCase_write_iff hwe]
  | false =>
    rw [driven_of_read a hwe, if_neg (ne_true_of_eq_false hwe), answerRead_eq_refuse_iff, ← refusedCase_read_iff hwe]

/-- A served access that is not refused is not answered as refused and leaves no mark (R121). -/
theorem Served.eq_refuse_or {a : Access} {s t : State} (h : Served a s t) :
    t = s.refuse ∨ (t.reply ≠ .refused ∧ t.refusals = s.refusals) := by
  cases h with
  | refused => exact .inl rfl
  | read | held | windowWritten | accepted | oddRounds | illegalCommand => exact .inr ⟨nofun, rfl⟩

/-- Settles O30: serving leads to `State.refuse` exactly in the listed cases, and elsewhere to a state without the
mark. -/
theorem refusedExactlyInTheListedCases : Obligations.RefusedExactlyInTheListedCases := by
  refine ⟨fun a s => ⟨(serve_eq_refuse_iff a s).mpr, fun hlisted => ?_⟩, rfl, rfl, rfl⟩
  obtain ⟨t, ht, hserved⟩ := serve_served s a
  refine ⟨t, ht, hserved.eq_refuse_or.resolve_left ?_⟩
  rintro rfl
  exact hlisted ((serve_eq_refuse_iff a s).mp ht)

/-- Settles O45: in IDLE the command write is performed, and an odd count raises ERR_ODD_ROUNDS. -/
theorem oddRoundCountsFault : Obligations.OddRoundCountsFault := by
  intro op r s hidle hodd
  rw [exec_instr, answerWrite_cmdWrite_idle _ _ hidle]
  rcases startCommand_cases s op r with ⟨-, hfault⟩ | ⟨heven, -⟩
  · rw [hfault]
    rfl
  · have hmod : r.toNat % 2 = 0 := (roundsOk_iff r).mp heven
    omega

end Sys2Proof.Machine

/-! ### Reset (R140, R141) -/

namespace Sys2Proof.Machine

section ResetTable

variable (s : State)

/-- Reset clears the 64 words of X (R140). -/
@[simp] theorem word_resetStep (k : Fin 4) (j : Fin 16) : s.resetStep.word k j = 0#32 := by
  have hlanes : State.reset.x = Quad.ofFn fun _ => blockOf 0#32 := rfl
  rw [State.word, resetStep_x, hlanes, Quad.get_ofFn, word_blockOf]

/-- After reset every block window reads as zero bytes (R32, R140). -/
@[simp] theorem windowByte_resetStep (b : BitVec 8) : s.resetStep.windowByte b = 0#8 := by
  rw [State.windowByte, word_resetStep, byteOfWord, BitVec.extractLsb'_zero]

/-- After reset STATUS reads 0 (R57, R140). -/
@[simp] theorem status_resetStep : s.resetStep.status = 0#32 := by
  rw [State.status, State.busy, State.err, resetStep_seq, resetStep_done, resetStep_errcode]
  decide

/-- After reset the three level outputs, which are bits of STATUS, are 0 (R126, R140). -/
theorem getLsbD_status_resetStep (i : Nat) : s.resetStep.status.getLsbD i = false := by
  rw [status_resetStep, BitVec.getLsbD_zero]

end ResetTable

/-- Settles O27: X and its windows are cleared, the pins are bits of a STATUS that reads 0, and the other rows of R140
are the reset step's own fields. -/
theorem resetLeavesResetTable : Obligations.ResetLeavesResetTable := fun _ _ hhost =>
  ⟨_, step_of_reset hhost, word_resetStep _, word_blockOf 0#32, rfl, rfl, rfl, rfl, rfl, rfl, rfl, status_resetStep _,
    getLsbD_status_resetStep _ 0, getLsbD_status_resetStep _ 1, getLsbD_status_resetStep _ 2, windowByte_resetStep _, rfl⟩

/-- Settles O58: reset is in IDLE with ERRCODE 0, no latch set and nothing on the port. -/
theorem resetMeetsControlInvariant : Obligations.ResetMeetsControlInvariant :=
  ⟨⟨nofun, fun _ => rfl⟩, ⟨nofun, nofun⟩, trivial⟩

end Sys2Proof.Machine

/-! ### Totality of the step (O26) -/

namespace Sys2Proof.Machine

/-- Settles O26: the turns of reset and of the sequencer each name their next state, and the host's turn serves an
access, which always answers (`serve_served`): a refusal and a fault are answers too (R121, R124). -/
theorem stepNeverStops : Obligations.StepNeverStops := by
  intro s
  rw [step]
  cases s.turn with
  | reset t => exact ⟨t.resetStep, rfl⟩
  | sequencer t => exact ⟨t.sequencerTurn, rfl⟩
  | serve a t =>
    obtain ⟨u, hu, -⟩ := serve_served t a
    exact ⟨u, hu⟩

end Sys2Proof.Machine
